-- ==== Sys2Proof/Word.lean ====
section
/-! DEFINITION. The plain value types: bytes, 32-bit words, pixels, colour channels and the two bank names. -/

namespace Sys2Proof

/-- A byte of the stream or one colour channel (R12, R13). -/
abbrev Byte := BitVec 8

/-- A register, a bus address or a bus data word: 32 bits (R14, R51). -/
abbrev Word := BitVec 32

/-- A pixel: three 8-bit unsigned channels, no alpha (R12). -/
structure Pixel where
  r : Byte
  g : Byte
  b : Byte
  deriving DecidableEq, Repr, Inhabited

/-- The black pixel (0, 0, 0). -/
def Pixel.black : Pixel := ⟨0, 0, 0⟩

/-- The three independent lanes of a pixel (R138). -/
inductive Channel where
  | red
  | green
  | blue
  deriving DecidableEq, Repr

/-- The value of one channel of a pixel. -/
def Pixel.chan (p : Pixel) : Channel → Byte
  | .red => p.r
  | .green => p.g
  | .blue => p.b

/-- The two pixel banks, PIX[0] and PIX[1] (R41). -/
inductive Bank where
  | bank0
  | bank1
  deriving DecidableEq, Repr, Inhabited

/-- The ping-pong partner: `1 - b` (R136). -/
def Bank.other : Bank → Bank
  | .bank0 => .bank1
  | .bank1 => .bank0

/-- The value the STATUS.CUR_BANK bit has for a bank (R24). -/
def Bank.bit : Bank → Bool
  | .bank0 => false
  | .bank1 => true

end Sys2Proof
end

