-- ==== Sys2Proof/Config.lean ====
section
/-! DEFINITION. What an implementation fixes (R9) and the free values the spec calls "any value" (R16, R44, R177). -/

namespace Sys2Proof

namespace Config

/-- The parameters the model takes (R9). They are plain data; `Params.wf` says which are legal. -/
structure Params where
  /-- Pixels each pixel bank holds. -/
  gridCap : Nat
  /-- Bytes the input window holds. -/
  inCap : Nat
  deriving DecidableEq, Repr

/-- The default of every parameter: the value the spec gives the hardware (R9). -/
def defaultParams : Params where
  gridCap := 33177600
  inCap := 268435456

/-- The constant of the ID register (R9, R22). -/
def idValue : Word := 0x50420001

/-- Palette entries: fixed (R9). -/
def palDepth : Nat := 256

/-- FREE VALUE (log 5, DEDUCED). What `IN[a]` holds after the `n`-th reset until it is written: any value (R44). -/
opaque unwrittenByte (n : Nat) (a : Nat) : Byte

/-- FREE VALUE (log 5, DEDUCED). What `PAL[i]` holds after the `n`-th reset until it is written: any value (R44). -/
opaque unwrittenEntry (n : Nat) (i : Nat) : Pixel

/-- FREE VALUE (log 5, DEDUCED). What `PIX[b][i]` holds after the `n`-th reset until it is written: any value (R44). -/
opaque unwrittenPixel (n : Nat) (b : Bank) (i : Nat) : Pixel

/-- FREE VALUE (log 7). The data of the `k`-th read made while BUSY whose value is any value (R177). -/
opaque busyData (k : Nat) : Word

/-- FREE VALUE (log 8). Whether the `k`-th draw, the response to a write that is a host fault, is OKAY (R178). -/
opaque faultOkay (k : Nat) : Bool

end Config

end Sys2Proof
end

