-- ==== Sys2Proof/Syntax.lean ====
section
/-! DEFINITION. The commands (one constructor per row of the opcode table) and the host's own turns: bus accesses and reset. -/

namespace Sys2Proof

/-- The four commands of the opcode map (R72). No command has an operand field (R70, R75).
A word that no row matches is no instruction: the decoder rejects it by name (R73). -/
inductive Instr where
  | nop
  | parse
  | decode
  | conv
  deriving DecidableEq, Repr

/-- The sizes of a host bus access: 1, 2 or 4 bytes (R51). -/
inductive Size where
  | one
  | two
  | four
  deriving DecidableEq, Repr

/-- The number of bytes an access of this size moves. -/
def Size.bytes : Size → Nat
  | .one => 1
  | .two => 2
  | .four => 4

/-- One host bus access (R51, R82). A write's data stand in the low bytes of the word (R59). -/
inductive Access where
  | read (size : Size) (addr : Word)
  | write (size : Size) (addr : Word) (data : Word)
  deriving DecidableEq, Repr

/-- One turn of the machine's two agents, or a reset (R7, R170). DESIGN CHOICE (log 1): a list of turns is one
interleaving of the host's accesses, the engine's steps and resets. -/
inductive Turn where
  /-- The host makes a bus access. -/
  | host (a : Access)
  /-- The engine moves: it takes its step if it is BUSY, and waits if it is IDLE. -/
  | engine
  /-- The reset input. -/
  | reset
  deriving DecidableEq, Repr

end Sys2Proof
end

