-- ==== Sys2Proof/WellFormed.lean ====
section
/-! DEFINITION. Which configurations are legal (R9). A command has no operand, so every `Instr` is well formed (R70). -/

namespace Sys2Proof

/-- GRID_CAP meets its constraint: `1 ≤ GRID_CAP ≤ 2^26` (R9). -/
def Config.Params.gridCapOk (p : Config.Params) : Bool := decide (1 ≤ p.gridCap ∧ p.gridCap ≤ 67108864)

/-- IN_CAP meets its constraint: `54 ≤ IN_CAP ≤ 2^28` (R9). -/
def Config.Params.inCapOk (p : Config.Params) : Bool := decide (54 ≤ p.inCap ∧ p.inCap ≤ 268435456)

/-- The model must check the constraints and refuse a configuration that breaks them (R9). -/
def Config.Params.wf (p : Config.Params) : Bool := p.gridCapOk && p.inCapOk

/-- The check in plain inequalities. -/
theorem Config.Params.wf_iff (p : Config.Params) :
    p.wf = true ↔ (1 ≤ p.gridCap ∧ p.gridCap ≤ 67108864) ∧ (54 ≤ p.inCap ∧ p.inCap ≤ 268435456) := by
  simp [Config.Params.wf, Config.Params.gridCapOk, Config.Params.inCapOk]

end Sys2Proof
end

