-- ==== Sys2Proof/Decode.lean ====
section
/-! DEFINITION. The command word: its fields, its decoder (total, illegal words rejected by name) and its encoder (R70 to R74). -/

namespace Sys2Proof

/-- The field OP, bits 3:0 of a command word (R70). -/
def opField (w : Word) : BitVec 4 := w.extractLsb' 0 4

/-- The field RSVD, bits 31:4 of a command word, which must be 0 (R70). -/
def rsvdField (w : Word) : BitVec 28 := w.extractLsb' 4 28

/-- Why a word is no command. Both end in the one error IllegalCommand (R73, R95). -/
inductive Illegal where
  /-- RSVD is not 0, whatever OP is. -/
  | reservedBits
  /-- RSVD is 0 and OP is 4 to 15. -/
  | reservedOp (op : BitVec 4)
  deriving DecidableEq, Repr

/-- The command with the selector OP, if there is one (R72). -/
def opInstr (op : BitVec 4) : Option Instr :=
  match op.toNat with
  | 0 => some .nop
  | 1 => some .parse
  | 2 => some .decode
  | 3 => some .conv
  | _ => none

/-- Decoding is total: every word is exactly one of NOP, PARSE, DECODE, CONV or illegal (R71, R73, R93). -/
def decodeWord (w : Word) : Except Illegal Instr :=
  if rsvdField w = 0 then
    match opInstr (opField w) with
    | some i => .ok i
    | none => .error (.reservedOp (opField w))
  else .error .reservedBits

/-- The word of a command: the match column of the opcode map (R72). -/
def encode : Instr → Word
  | .nop => 0x00000000
  | .parse => 0x00000001
  | .decode => 0x00000002
  | .conv => 0x00000003

/-- The command read from `nbits` bits of the number `w`, bit 0 lowest, every bit above zero.
A command is one 32-bit word (R74), so a number that does not fit in 32 bits is none. -/
def decodeTableWord (nbits w : Nat) : Option Instr :=
  if w % 2 ^ nbits < 2 ^ 32 then
    match decodeWord (BitVec.ofNat 32 (w % 2 ^ nbits)) with
    | .ok i => some i
    | .error _ => none
  else none

end Sys2Proof
end

