-- ==== Sys2Proof/Machine/State.lean ====
section
/-! DEFINITION. The whole state of the machine as plain data, its reset value, and why a step can stop. -/

namespace Sys2Proof.Machine

/-- Why the machine stops with a fault. It never does, so there is no constructor: an error of a command is recorded in
STATUS and the engine goes on (R153, R167), a bus ERROR is the outcome of one access (R56), a host fault is a sticky mark
(R178), and no item of the spec is stuck. -/
inductive Fault where
  deriving DecidableEq, Repr

/-- Why the model gives a step no meaning. -/
inductive Refusal where
  /-- Raised by an arm of `exec` whose command has no meaning yet; no arm raises it now. Safe. -/
  | notModelled (mnemonic : String)
  /-- Raised by `step` when `State.params` breaks a constraint of R9, which says to refuse it (log 10). Safe. -/
  | badConfiguration
  deriving DecidableEq, Repr

/-- The errors a command can end with (R150). -/
inductive EngineError where
  | invalidSignature
  | tooManyPlanes
  | invalidColorTable
  | invalidBitDepth
  | invalidHeaderSize
  | unsupportedCompression
  | readError
  | seekError
  | allocationError
  | badParameter
  | illegalCommand
  | invalidGrid
  deriving DecidableEq, Repr

/-- The sequencer state (R21). -/
inductive Seq where
  | idle
  | busy (cmd : Word)
  deriving DecidableEq, Repr

/-- The stored fields of STATUS (R24). BUSY is not stored: it is 1 exactly when SEQ is BUSY (R21). Reserved bits are
not stored: they read 0 and ignore writes (R34). -/
structure Status where
  done : Bool
  err : Bool
  trunc : Bool
  range : Bool
  curBank : Bank
  lost : Bool
  errCode : BitVec 8
  deriving DecidableEq, Repr

/-- The stored fields of CFG (R25). -/
structure Cfg where
  irqEn : Bool
  sharpClamp : Bool
  deriving DecidableEq, Repr

/-- The file-header shadow registers (R30). -/
structure FileHeader where
  signature : Word
  fileSize : Word
  reserved : Word
  dataOffset : Word
  deriving DecidableEq, Repr

/-- The info-header shadow registers (R31). -/
structure InfoHeader where
  headerSize : Word
  width : Word
  height : Word
  planes : Word
  bpp : Word
  compression : Word
  imageSize : Word
  xppm : Word
  yppm : Word
  colorsUsed : Word
  important : Word
  deriving DecidableEq, Repr

/-- Whether a bus access completed with OKAY or ERROR (R51). -/
inductive BusStatus where
  | okay
  | error
  deriving DecidableEq, Repr

/-- How a host access completed: a read gives a status and data, a write a status (R51, log 12). -/
inductive Response where
  | read (status : BusStatus) (data : Word)
  | write (status : BusStatus)
  deriving DecidableEq, Repr

/-- The state of the machine (INVENTORY.md, State). -/
structure State where
  /-- The parameters, fixed for the machine: IN_CAP and GRID_CAP (R9, R28, log 10). -/
  params : Config.Params
  /-- The sequencer (R21). -/
  seq : Seq
  /-- STATUS (R24). -/
  status : Status
  /-- CFG (R25). -/
  cfg : Cfg
  /-- PARAM (R26). -/
  param : Word
  /-- IN_LEN (R27). -/
  inLen : Word
  /-- GRID_W (R29). -/
  gridW : Word
  /-- GRID_H (R29). -/
  gridH : Word
  /-- ROW_BYTES (R32). -/
  rowBytes : Word
  /-- ROWS_DONE (R33). -/
  rowsDone : Word
  /-- HDR_SIGNATURE to HDR_DATA_OFFSET (R30). -/
  fileHdr : FileHeader
  /-- HDR_HEADER_SIZE to HDR_IMPORTANT (R31). -/
  infoHdr : InfoHeader
  /-- PAL, the entries written since the last reset, by index (R40, R44, log 6). -/
  pal : List (Nat × Pixel)
  /-- PIX[0], the pixels written since the last reset, by index (R41, R44, log 6). -/
  pix0 : List (Nat × Pixel)
  /-- PIX[1], the pixels written since the last reset, by index (R41, R44, log 6). -/
  pix1 : List (Nat × Pixel)
  /-- IN, the bytes written since the last reset, by offset (R52, R44, log 6). -/
  inMem : List Host.Cell
  /-- A CMD write has not yet been followed by a read of STATUS with BUSY = 0 (R176, log 9). -/
  awaitSync : Bool
  /-- The sticky mark `host_fault` (R178, log 8). -/
  hostFault : Bool
  /-- MODEL's own: the turns to come (log 1). -/
  pending : List Turn
  /-- MODEL's own: how the last host access completed (R51, log 12). -/
  response : Option Response
  /-- MODEL's own: resets so far; it picks the free contents of unwritten memory (log 5). -/
  resets : Nat
  /-- MODEL's own: free values drawn so far by host accesses (log 7, log 8). -/
  draws : Nat
  deriving DecidableEq, Repr

/-- STATUS after reset: 0x0000_0000 (R43). -/
def Status.reset : Status where
  done := false
  err := false
  trunc := false
  range := false
  curBank := .bank0
  lost := false
  errCode := 0

/-- CFG after reset: irq masked, sharpen WRAP (R43). -/
def Cfg.reset : Cfg where
  irqEn := false
  sharpClamp := false

/-- The file-header shadows after reset (R43). -/
def FileHeader.reset : FileHeader where
  signature := 0
  fileSize := 0
  reserved := 0
  dataOffset := 0

/-- The info-header shadows after reset (R43). -/
def InfoHeader.reset : InfoHeader where
  headerSize := 0
  width := 0
  height := 0
  planes := 0
  bpp := 0
  compression := 0
  imageSize := 0
  xppm := 0
  yppm := 0
  colorsUsed := 0
  important := 0

/-- The machine right after its first reset (R43, R44, R171): every register as the spec says, no memory written, and the
model's own fields at the values log 13 names. -/
def State.reset : State where
  params := Config.defaultParams
  seq := .idle
  status := Status.reset
  cfg := Cfg.reset
  param := 0
  inLen := 0
  gridW := 0
  gridH := 0
  rowBytes := 0
  rowsDone := 0
  fileHdr := FileHeader.reset
  infoHdr := InfoHeader.reset
  pal := []
  pix0 := []
  pix1 := []
  inMem := []
  awaitSync := false
  hostFault := false
  pending := []
  response := none
  resets := 0
  draws := 0

end Sys2Proof.Machine
end

