-- ==== Sys2Proof/Machine/Flags.lean ====
section
/-! DEFINITION. The flags: the STATUS and CFG words as the bus sees them, what the start and end of a command do to
STATUS, write-one-to-clear, the error codes and the irq line. -/

namespace Sys2Proof.Machine

/-- SEQ = BUSY(_), which is STATUS.BUSY (R21). -/
def Seq.isBusy : Seq → Bool
  | .idle => false
  | .busy _ => true

/-- The code of an error (R150). -/
def EngineError.code : EngineError → BitVec 8
  | .invalidSignature => 1
  | .tooManyPlanes => 2
  | .invalidColorTable => 3
  | .invalidBitDepth => 4
  | .invalidHeaderSize => 5
  | .unsupportedCompression => 6
  | .readError => 7
  | .seekError => 8
  | .allocationError => 9
  | .badParameter => 10
  | .illegalCommand => 11
  | .invalidGrid => 12

/-- STATUS bits 7:0, bit 0 first: BUSY, DONE, ERR, TRUNC, RANGE, CUR_BANK, LOST and a reserved bit (R24). -/
def statusFlags (seq : Seq) (st : Status) : BitVec 8 :=
  BitVec.ofBoolListLE [seq.isBusy, st.done, st.err, st.trunc, st.range, st.curBank.bit, st.lost, false]

/-- The STATUS register as a word: 31:16 zero, 15:8 ERRCODE, 7:0 the flags (R24). -/
def statusWord (seq : Seq) (st : Status) : Word := 0#16 ++ st.errCode ++ statusFlags seq st

/-- CFG bits 1:0, bit 0 first: IRQ_EN, SHARP_CLAMP (R25). -/
def cfgFlags (c : Cfg) : BitVec 2 := BitVec.ofBoolListLE [c.irqEn, c.sharpClamp]

/-- The CFG register as a word: 31:2 zero, then the two fields (R25). -/
def cfgWord (c : Cfg) : Word := 0#30 ++ cfgFlags c

/-- A host write of CFG stores its two fields and ignores the reserved bits (R25, R34). -/
def cfgOfWord (w : Word) : Cfg where
  irqEn := w.getLsbD 0
  sharpClamp := w.getLsbD 1

/-- The start effects on the stored flags; CUR_BANK and LOST are unchanged (R91). -/
def Status.start (st : Status) : Status :=
  { st with done := false, err := false, errCode := 0, trunc := false, range := false }

/-- The end effect on the stored flags (R92). -/
def Status.ended (st : Status) : Status := { st with done := true }

/-- What `raise` records (R153). -/
def Status.failed (st : Status) (e : EngineError) : Status := { st with err := true, errCode := e.code }

/-- A host write to STATUS: bit 1 clears DONE, bit 6 clears LOST, every other bit is ignored (R37). -/
def Status.clear (st : Status) (w : Word) : Status :=
  { st with done := st.done && !w.getLsbD 1, lost := st.lost && !w.getLsbD 6 }

/-- The irq line, a level: `STATUS.DONE AND CFG.IRQ_EN` (R38, R158). -/
def State.irq (s : State) : Bool := s.status.done && s.cfg.irqEn

/-- A sharpen channel sum outside [0, 255], which sets RANGE (R140). -/
def outOfRange (v : Int) : Bool := decide (v < 0 ∨ 255 < v)

end Sys2Proof.Machine
end

