-- ==== Sys2Proof/Machine/Ops.lean ====
section
/-! DEFINITION. The named operations over memory and registers, and the life of a command: issue, `finish`, `raise`, reset.
An error is the engine's only exception: `State.raise` takes it. There is no return from one (R157). -/

namespace Sys2Proof.Machine

/-! ### Memory: pairs of address and value, addresses strictly rising -/

/-- The value written at an address since the last reset, if any (R44, log 6). -/
def Memory.get? {β : Type} : List (Nat × β) → Nat → Option β
  | [], _ => none
  | (k, v) :: m, a => if k = a then some v else Memory.get? m a

/-- Write a value at an address, keeping the addresses strictly rising (log 6). -/
def Memory.set {β : Type} : List (Nat × β) → Nat → β → List (Nat × β)
  | [], a, v => [(a, v)]
  | (k, w) :: m, a, v =>
    if a < k then (a, v) :: (k, w) :: m
    else if a = k then (a, v) :: m
    else (k, w) :: Memory.set m a v

/-- The canonical form: addresses strictly rising (log 6). An unlisted address holds no written value, so no entry can
equal what an unlisted address reads as. -/
abbrev Memory.wf {β : Type} (m : List (Nat × β)) : Prop := (m.map Prod.fst).Pairwise (· < ·)

/-- Every listed address is below a bound. -/
abbrev Memory.below {β : Type} (m : List (Nat × β)) (cap : Nat) : Prop := ∀ c ∈ m, c.1 < cap

/-- `for x in 0 .. n-1: m[base + x] <- f x`, in that order. -/
def Memory.fill {β : Type} (m : List (Nat × β)) (base : Nat) (f : Nat → β) : Nat → List (Nat × β)
  | 0 => m
  | n + 1 => Memory.set (Memory.fill m base f n) (base + n) (f n)

/-- `for y in r .. r+k-1: for x in 0 .. w-1: m[y*w + x] <- f y x`, in that order: rows of a row-major grid (R41). -/
def Memory.fillRows {β : Type} (m : List (Nat × β)) (w r : Nat) (f : Nat → Nat → β) : Nat → List (Nat × β)
  | 0 => m
  | k + 1 => Memory.fill (Memory.fillRows m w r f k) ((r + k) * w) (f (r + k)) w

/-! ### Reading the machine's memories -/

/-- `IN[a]` (R13, R52): the byte written since the last reset, else any value (R44, log 5). -/
def State.inByte (s : State) (a : Nat) : Byte := (Memory.get? s.inMem a).getD (Config.unwrittenByte s.resets a)

/-- `PAL[i]` (R40): the entry loaded since the last reset, else any value (R44, log 5). -/
def State.palEntry (s : State) (i : Nat) : Pixel := (Memory.get? s.pal i).getD (Config.unwrittenEntry s.resets i)

/-- The storage of a pixel bank (R41). -/
def State.bank (s : State) : Bank → List (Nat × Pixel)
  | .bank0 => s.pix0
  | .bank1 => s.pix1

/-- Replace the storage of a pixel bank. -/
def State.setBank (s : State) : Bank → List (Nat × Pixel) → State
  | .bank0, m => { s with pix0 := m }
  | .bank1, m => { s with pix1 := m }

/-- Write the four file-header shadows together (R30). -/
def State.setFileHdr (s : State) (h : FileHeader) : State := { s with fileHdr := h }

/-- Write the eleven info-header shadows together (R31). -/
def State.setInfoHdr (s : State) (h : InfoHeader) : State := { s with infoHdr := h }

/-- Replace the storage of PAL (R40). -/
def State.setPal (s : State) (m : List (Nat × Pixel)) : State := { s with pal := m }

/-- `ROW_BYTES <- v` (R32). -/
def State.setRowBytes (s : State) (v : Word) : State := { s with rowBytes := v }

/-- `PIX[b][i]` (R13, R41): the pixel written since the last reset, else any value (R44, log 5). -/
def State.pixel (s : State) (b : Bank) (i : Nat) : Pixel :=
  (Memory.get? (s.bank b) i).getD (Config.unwrittenPixel s.resets b i)

/-- `MemRead(a, n)`: the little-endian value of n bytes of the stream, the byte at a lowest (R13, R57). -/
def State.memRead (s : State) (a : Nat) : Nat → Nat
  | 0 => 0
  | n + 1 => (s.inByte a).toNat + 256 * s.memRead (a + 1) n

/-- `LE16(a)`, zero-extended to a register's width (R13, R30). -/
def State.le16 (s : State) (a : Nat) : Word := BitVec.ofNat 32 (s.memRead a 2)

/-- `LE32(a)` (R13). -/
def State.le32 (s : State) (a : Nat) : Word := BitVec.ofNat 32 (s.memRead a 4)

/-! ### Pixels as bus words -/

/-- The bus word of a pixel: 8'h00, R, G, B from the top byte down (R12). -/
def pixelWord (p : Pixel) : Word := 0#8 ++ p.r ++ p.g ++ p.b

/-- The pixel a bus word stores: bits 31:24 are ignored (R53). -/
def wordPixel (w : Word) : Pixel := ⟨w.extractLsb' 16 8, w.extractLsb' 8 8, w.extractLsb' 0 8⟩

/-! ### The life of a command -/

/-- Issue of a command word: SEQ becomes BUSY and the start effects happen at once (R90, R91). From here on the host must
read STATUS with BUSY = 0 before it may rely on anything (R176, log 9). -/
def State.issue (s : State) (w : Word) : State :=
  { s with seq := .busy w, status := s.status.start, awaitSync := true }

/-- `finish`: the end effects only (R92, R152). -/
def State.finish (s : State) : State := { s with seq := .idle, status := s.status.ended }

/-- `raise E`: the one way an error is taken. ERR and ERRCODE are written, then the end effects happen; what the command
wrote before stands (R15, R153, R156). -/
def State.raise (s : State) (e : EngineError) : State :=
  { s with seq := .idle, status := (s.status.failed e).ended }

/-- The reset input, in any state (R43, R44, R170, R172): every register at its reset value, nothing written in any
memory, and fresh free contents. The parameters stay, the sticky host fault stays (R178, log 8), and so do the model's own
list of turns, last response and draws (log 13). -/
def State.takeReset (s : State) : State :=
  { State.reset with
    params := s.params
    hostFault := s.hostFault
    pending := s.pending
    response := s.response
    resets := s.resets + 1
    draws := s.draws }

/-! ### Stages of a command -/

/-- What a stage of a command gives: the state after its writes, going on or ended by an error (R15, R92). -/
inductive Stage where
  | go (s : State)
  | stop (e : EngineError) (s : State)
  deriving DecidableEq, Repr

/-- Run the next stage unless an error ended the command: the first failing check wins (R155). -/
def Stage.andThen (x : Stage) (f : State → Stage) : Stage :=
  match x with
  | .go s => f s
  | .stop e s => .stop e s

/-- The state after the command: `finish` where every stage went on, `raise` where one stopped (R92). -/
def Stage.ended (x : Stage) : State :=
  match x with
  | .go s => s.finish
  | .stop e s => s.raise e

/-- `if c then raise e` (R15). -/
def failIf (c : Prop) [Decidable c] (e : EngineError) (s : State) : Stage := if c then .stop e s else .go s

end Sys2Proof.Machine
end

