-- ==== Sys2Proof/Machine/Operands.lean ====
section
/-! DEFINITION. What a command reads as its operands (R75), the fields of the BMP stream (R76 to R79) and the cutting of a
pixel field from a row (R117 to R119). -/

namespace Sys2Proof.Machine

/-- `n = IN_LEN`, unsigned (R75, R102). -/
def State.streamLen (s : State) : Nat := s.inLen.toNat

/-- `v = s32(PARAM)` (R75, R135). -/
def State.convValue (s : State) : Int := s.param.toInt

/-- The number of passes, `N = |v|`, exact: 2^31 for v = -2^31 (R11, R135). -/
def State.convCount (s : State) : Nat := s.convValue.natAbs

/-- `W = u32(GRID_W)` (R75, R132). -/
def State.gridWidth (s : State) : Nat := s.gridW.toNat

/-- `H = u32(GRID_H)` (R75, R132). -/
def State.gridHeight (s : State) : Nat := s.gridH.toNat

/-- Dimensions no grid has: `W = 0 or H = 0 or W * H > GRID_CAP`, the product exact (R113, R132). -/
abbrev badDims (s : State) (w h : Nat) : Prop := w = 0 ∨ h = 0 ∨ w * h > s.params.gridCap

/-- The four fields of the file header at their stream offsets (R30, R76). -/
def State.readFileHdr (s : State) : FileHeader where
  signature := s.le16 0
  fileSize := s.le32 2
  reserved := s.le32 6
  dataOffset := s.le32 10

/-- The eleven fields of the info header at their stream offsets (R31, R77). -/
def State.readInfoHdr (s : State) : InfoHeader where
  headerSize := s.le32 14
  width := s.le32 18
  height := s.le32 22
  planes := s.le16 26
  bpp := s.le16 28
  compression := s.le32 30
  imageSize := s.le32 34
  xppm := s.le32 38
  yppm := s.le32 42
  colorsUsed := s.le32 46
  important := s.le32 50

/-- `bpp <- HDR_BPP` (R107). -/
def State.bpp (s : State) : Nat := s.infoHdr.bpp.toNat

/-- `W <- u32(HDR_WIDTH)` (R113). -/
def State.hdrWidth (s : State) : Nat := s.infoHdr.width.toNat

/-- `H <- u32(HDR_HEIGHT)` (R113). -/
def State.hdrHeight (s : State) : Nat := s.infoHdr.height.toNat

/-- Palette entry i of the stream: blue, green, red and an unread byte at 54 + 4i (R78). -/
def State.streamEntry (s : State) (i : Nat) : Pixel :=
  ⟨s.inByte (54 + 4 * i + 2), s.inByte (54 + 4 * i + 1), s.inByte (54 + 4 * i)⟩

/-- The row stride in bytes, `((W * bpp + 31) div 32) * 4` (R79, R114). -/
def rowStride (w bpp : Nat) : Nat := (w * bpp + 31) / 32 * 4

/-- Where row r of the pixel data starts: `HDR_DATA_OFFSET + r * ROW_BYTES`, exact (R79, R116). -/
def State.rowBase (s : State) (r : Nat) : Nat := s.fileHdr.dataOffset.toNat + r * s.rowBytes.toNat

/-- `Field(base, p, b)`: the b-bit field at row bit p, cut from one little-endian word of the row or from two adjacent
ones (R118). -/
def State.field (s : State) (base p b : Nat) : Nat :=
  let j := p / 32
  let off := p % 32
  let w0 := s.memRead (base + 4 * j) 4
  let n1 := min b (32 - off)
  let lo := w0 / 2 ^ off % 2 ^ n1
  if b > n1 then
    let w1 := s.memRead (base + 4 * (j + 1)) 4
    let hi := w1 % 2 ^ (b - n1)
    lo + hi * 2 ^ n1
  else lo

end Sys2Proof.Machine
end

