-- ==== Sys2Proof/Machine/Bus.lean ====
section
/-! DEFINITION. The host's side: the register table, the address map, a bus access when IDLE and while BUSY, and the host
protocol (10_state.md section 2, 20_memory.md, 70_reset_and_hazards.md section 3). -/

namespace Sys2Proof.Machine

/-- The named registers of the register window (10_state.md section 2). -/
inductive Reg where
  | id
  | cmd
  | status
  | cfg
  | param
  | inLen
  | gridW
  | gridH
  | rowBytes
  | rowsDone
  | inCap
  | gridCap
  | hdrSignature
  | hdrFileSize
  | hdrReserved
  | hdrDataOffset
  | hdrHeaderSize
  | hdrWidth
  | hdrHeight
  | hdrPlanes
  | hdrBpp
  | hdrCompression
  | hdrImageSize
  | hdrXppm
  | hdrYppm
  | hdrColorsUsed
  | hdrImportant
  deriving DecidableEq, Repr

/-- The register table: offset in the window, register (10_state.md section 2). -/
def regTable : List (Nat × Reg) :=
  [(0x000, .id), (0x004, .cmd), (0x008, .status), (0x00C, .cfg), (0x010, .param), (0x014, .inLen), (0x018, .gridW),
   (0x01C, .gridH), (0x020, .rowBytes), (0x024, .rowsDone), (0x028, .inCap), (0x02C, .gridCap),
   (0x040, .hdrSignature), (0x044, .hdrFileSize), (0x048, .hdrReserved), (0x04C, .hdrDataOffset),
   (0x050, .hdrHeaderSize), (0x054, .hdrWidth), (0x058, .hdrHeight), (0x05C, .hdrPlanes), (0x060, .hdrBpp),
   (0x064, .hdrCompression), (0x068, .hdrImageSize), (0x06C, .hdrXppm), (0x070, .hdrYppm), (0x074, .hdrColorsUsed),
   (0x078, .hdrImportant)]

/-- The register at an offset of the window; `none` where the offset is reserved (R34). -/
def regAt (off : Nat) : Option Reg := Memory.get? regTable off

/-- What a host read of a register returns when IDLE (R22 to R33). -/
def State.readReg (s : State) : Reg → Word
  | .id => Config.idValue
  | .cmd => 0
  | .status => statusWord s.seq s.status
  | .cfg => cfgWord s.cfg
  | .param => s.param
  | .inLen => s.inLen
  | .gridW => s.gridW
  | .gridH => s.gridH
  | .rowBytes => s.rowBytes
  | .rowsDone => s.rowsDone
  | .inCap => BitVec.ofNat 32 s.params.inCap
  | .gridCap => BitVec.ofNat 32 s.params.gridCap
  | .hdrSignature => s.fileHdr.signature
  | .hdrFileSize => s.fileHdr.fileSize
  | .hdrReserved => s.fileHdr.reserved
  | .hdrDataOffset => s.fileHdr.dataOffset
  | .hdrHeaderSize => s.infoHdr.headerSize
  | .hdrWidth => s.infoHdr.width
  | .hdrHeight => s.infoHdr.height
  | .hdrPlanes => s.infoHdr.planes
  | .hdrBpp => s.infoHdr.bpp
  | .hdrCompression => s.infoHdr.compression
  | .hdrImageSize => s.infoHdr.imageSize
  | .hdrXppm => s.infoHdr.xppm
  | .hdrYppm => s.infoHdr.yppm
  | .hdrColorsUsed => s.infoHdr.colorsUsed
  | .hdrImportant => s.infoHdr.important

/-- A host write of CMD: a command is issued when IDLE (R90), dropped with LOST set while BUSY (R98). -/
def State.writeCmd (s : State) (v : Word) : State :=
  match s.seq with
  | .idle => s.issue v
  | .busy _ => { s with status := { s.status with lost := true } }

/-- What a host write of a register does when IDLE (R35): CMD, STATUS, CFG, PARAM, IN_LEN (clamped, R27), GRID_W and
GRID_H take it, every other register ignores it. -/
def State.writeReg (s : State) (r : Reg) (v : Word) : State :=
  match r with
  | .cmd => s.writeCmd v
  | .status => { s with status := s.status.clear v }
  | .cfg => { s with cfg := cfgOfWord v }
  | .param => { s with param := v }
  | .inLen => { s with inLen := BitVec.ofNat 32 (min v.toNat s.params.inCap) }
  | .gridW => { s with gridW := v }
  | .gridH => { s with gridH := v }
  | .id | .rowBytes | .rowsDone | .inCap | .gridCap
  | .hdrSignature | .hdrFileSize | .hdrReserved | .hdrDataOffset
  | .hdrHeaderSize | .hdrWidth | .hdrHeight | .hdrPlanes | .hdrBpp | .hdrCompression | .hdrImageSize
  | .hdrXppm | .hdrYppm | .hdrColorsUsed | .hdrImportant => s

/-- Where a bus address leads (R55). -/
inductive Target where
  | register (off : Nat)
  | palette (i : Nat)
  | input (off : Nat)
  | pixel (b : Bank) (i : Nat)
  | unmapped
  deriving DecidableEq, Repr

/-- The host address map, slot by slot; the capacity inside a slot is the access's business (R55, R56). -/
def decodeAddr (a : Word) : Target :=
  if a.toNat < 0x400 then .register a.toNat
  else if a.toNat < 0x800 then .palette ((a.toNat - 0x400) / 4)
  else if a.toNat < 0x10000000 then .unmapped
  else if a.toNat < 0x20000000 then .input (a.toNat - 0x10000000)
  else if a.toNat < 0x30000000 then .pixel .bank0 ((a.toNat - 0x20000000) / 4)
  else if a.toNat < 0x40000000 then .pixel .bank1 ((a.toNat - 0x30000000) / 4)
  else .unmapped

/-- The target takes an access of this size: IN any size, the others 4 bytes only (R52 to R56). -/
def Target.takes (t : Target) (z : Size) : Bool :=
  match t with
  | .input _ => true
  | .unmapped => false
  | .register _ | .palette _ | .pixel _ _ => decide (z = .four)

/-- The access ends in ERROR: misaligned, unmapped or of a size the window does not take (R51, R56, R60). -/
def busError (z : Size) (a : Word) : Bool := decide (a.toNat % z.bytes ≠ 0) || !(decodeAddr a).takes z

/-- One byte lane of a read of IN: 0 beyond the capacity (R56, R59, log 11). -/
def State.inputLane (s : State) (off : Nat) : Nat := if off < s.params.inCap then (s.inByte off).toNat else 0

/-- A read of n bytes of IN, the byte at the lowest address in the lowest lane (R59). -/
def State.readInput (s : State) (off : Nat) : Nat → Nat
  | 0 => 0
  | n + 1 => s.inputLane off + 256 * s.readInput (off + 1) n

/-- A write of the low n bytes of v to IN; a byte beyond the capacity is ignored (R52, R56, R59, log 11). -/
def State.writeInput (s : State) (off : Nat) (v : Word) : Nat → State
  | 0 => s
  | n + 1 =>
    let t := s.writeInput off v n
    if off + n < s.params.inCap then { t with inMem := Memory.set t.inMem (off + n) (v.extractLsb' (8 * n) 8) } else t

/-- The data of a read when IDLE (R34, R52 to R56). -/
def State.readTarget (s : State) (t : Target) (z : Size) : Word :=
  match t with
  | .register off =>
    match regAt off with
    | some r => s.readReg r
    | none => 0
  | .palette i => pixelWord (s.palEntry i)
  | .input off => BitVec.ofNat 32 (s.readInput off z.bytes)
  | .pixel b i => if i < s.params.gridCap then pixelWord (s.pixel b i) else 0
  | .unmapped => 0

/-- The effect of a write when IDLE (R34, R35, R52 to R56). -/
def State.writeTarget (s : State) (t : Target) (z : Size) (v : Word) : State :=
  match t with
  | .register off =>
    match regAt off with
    | some r => s.writeReg r v
    | none => s
  | .palette _ => s
  | .input off => s.writeInput off v z.bytes
  | .pixel b i => if i < s.params.gridCap then s.setBank b (Memory.set (s.bank b) i (wordPixel v)) else s
  | .unmapped => s

/-- The host must treat the engine as BUSY: it is, or the host has not yet read STATUS with BUSY = 0 since the last CMD
write (R176, log 9). -/
def State.hostBusy (s : State) : Bool := s.seq.isBusy || s.awaitSync

/-- Reads whose value R177 defines while BUSY. -/
def Target.readDefined (t : Target) : Bool :=
  match t with
  | .register off => decide (regAt off = some .id ∨ regAt off = some .status ∨ regAt off = some .inCap ∨ regAt off = some .gridCap)
  | .palette _ | .input _ | .pixel _ _ | .unmapped => false

/-- Writes whose effect R177 defines while BUSY. -/
def Target.writeDefined (t : Target) : Bool :=
  match t with
  | .register off => decide (regAt off = some .status ∨ regAt off = some .cmd)
  | .palette _ | .input _ | .pixel _ _ | .unmapped => false

/-- Record how an access completed (R51, log 12). -/
def State.respond (s : State) (r : Response) : State := { s with response := some r }

/-- The synchronising read: STATUS read with BUSY = 0 (R63, R176). -/
def State.synced (s : State) (t : Target) : State :=
  if t = .register 0x008 ∧ s.seq = .idle then { s with awaitSync := false } else s

/-- An any-value datum, cut to the access's lanes (R177, log 7). -/
def laneMask (z : Size) (v : Word) : Word := BitVec.ofNat 32 (v.toNat % 2 ^ (8 * z.bytes))

/-- A host read (R51, R62, R177). -/
def State.hostRead (s : State) (z : Size) (a : Word) : State :=
  if busError z a then s.respond (.read .error 0)
  else if s.hostBusy && !(decodeAddr a).readDefined then
    { s with draws := s.draws + 1 }.respond (.read .okay (laneMask z (Config.busyData s.draws)))
  else (s.synced (decodeAddr a)).respond (.read .okay (s.readTarget (decodeAddr a) z))

/-- A host fault: the sticky mark. The write has no outcome the spec defines, so its response is a free value and claims
take "no host fault" as a premise (R178, log 8). -/
def State.takeHostFault (s : State) : State :=
  { s with hostFault := true, draws := s.draws + 1 }.respond
    (.write (if Config.faultOkay s.draws then .okay else .error))

/-- A host write (R51, R62, R177). -/
def State.hostWrite (s : State) (z : Size) (a : Word) (v : Word) : State :=
  if busError z a then s.respond (.write .error)
  else if s.hostBusy && !(decodeAddr a).writeDefined then s.takeHostFault
  else (s.writeTarget (decodeAddr a) z v).respond (.write .okay)

/-- One host bus access (R51). -/
def State.hostAccess (s : State) : Access → State
  | .read z a => s.hostRead z a
  | .write z a v => s.hostWrite z a v

end Sys2Proof.Machine
end

