-- ==== Sys2Proof/Machine/Conv.lean ====
section
/-! DEFINITION. CONV: its checks, kernels and double-buffered passes, rules R130 to R141 (42_convolution.md). -/

namespace Sys2Proof.Machine

/-- The two kernels (R133, R134). -/
inductive Kernel where
  | blur
  | sharpen
  deriving DecidableEq, Repr

/-- KBLUR and KSHARP, row by row: entry [i][j] has i = dy + 1 and j = dx + 1 (R133, R134). -/
def Kernel.matrix : Kernel → List (List Int)
  | .blur => [[1, 2, 1], [2, 4, 2], [1, 2, 1]]
  | .sharpen => [[0, -1, 0], [-1, 5, -1], [0, -1, 0]]

/-- `K[i][j]` (R133, R134). -/
def Kernel.weight (k : Kernel) (i j : Nat) : Int := (k.matrix.getD i []).getD j 0

/-- `v > 0` selects the blur kernel, `v < 0` the sharpen kernel (R135). -/
def kernelOf (v : Int) : Kernel := if v > 0 then .blur else .sharpen

/-- A grid pixel of the first or last row or column (R137). -/
abbrev onBorder (w h x y : Nat) : Prop := x = 0 ∨ y = 0 ∨ x + 1 = w ∨ y + 1 = h

/-- `Conv(K, src, x, y, c)`: the weighted sum of the nine taps, an exact integer; px is the source bank (R138). -/
def convSum (k : Kernel) (px : Nat → Pixel) (w x y : Nat) (c : Channel) : Int :=
  ((List.range 3).map fun i =>
    ((List.range 3).map fun j => k.weight i j * ((px ((y + i - 1) * w + (x + j - 1))).chan c).toNat).sum).sum

/-- `OutBlur(s) = s div 16` (R139). -/
def outBlur (v : Int) : Byte := BitVec.ofInt 8 (v / 16)

/-- The stored value of `OutSharp(s)`: WRAP keeps `s mod 256`, CLAMP keeps `clamp(s, 0, 255)` (R140). -/
def outSharp (clamp : Bool) (v : Int) : Byte :=
  if clamp then BitVec.ofInt 8 (max 0 (min 255 v)) else BitVec.ofInt 8 (v % 256)

/-- The output function of a kernel (R130). -/
def Kernel.out (k : Kernel) (clamp : Bool) (v : Int) : Byte :=
  match k with
  | .blur => outBlur v
  | .sharpen => outSharp clamp v

/-- The three lanes of an interior pixel, each from its own channel of the taps (R136, R138). -/
def convPixel (k : Kernel) (clamp : Bool) (px : Nat → Pixel) (w x y : Nat) : Pixel :=
  ⟨k.out clamp (convSum k px w x y .red), k.out clamp (convSum k px w x y .green), k.out clamp (convSum k px w x y .blue)⟩

/-- Pixel (x, y) of a pass: the border is copied, the interior computed (R136, R137). -/
def passPixel (k : Kernel) (clamp : Bool) (px : Nat → Pixel) (w h y x : Nat) : Pixel :=
  if onBorder w h x y then px (y * w + x) else convPixel k clamp px w x y

/-- Some channel sum of pixel (x, y) is outside [0, 255]. -/
def pixelOutOfRange (k : Kernel) (px : Nat → Pixel) (w x y : Nat) : Bool :=
  outOfRange (convSum k px w x y .red) || outOfRange (convSum k px w x y .green) || outOfRange (convSum k px w x y .blue)

/-- A pass sets RANGE: a sharpen sum of some interior pixel is outside [0, 255]; blur never does (R139, R140). -/
def passRange (k : Kernel) (px : Nat → Pixel) (w h : Nat) : Bool :=
  decide (k = .sharpen) &&
    (List.range h).any fun y =>
      (List.range w).any fun x => !decide (onBorder w h x y) && pixelOutOfRange k px w x y

/-- STATUS after a pass: RANGE is sticky and CUR_BANK names the bank just written (R136, R140, R141). -/
def Status.passed (st : Status) (range : Bool) : Status :=
  { st with range := st.range || range, curBank := st.curBank.other }

/-- One pass: the current bank is read, the other written, then they swap roles (R136, R141). -/
def convPass (k : Kernel) (s : State) : State :=
  let src := s.status.curBank
  let px := s.pixel src
  let w := s.gridWidth
  let h := s.gridHeight
  { s.setBank src.other (Memory.fillRows (s.bank src.other) w 0 (passPixel k s.cfg.sharpClamp px w h) h) with
    status := s.status.passed (passRange k px w h) }

/-- `repeat N times: Pass(K, Out)` (R130). -/
def convPasses (k : Kernel) (s : State) : Nat → State
  | 0 => s
  | n + 1 => convPass k (convPasses k s n)

/-- Zero value is an error, checked first (R131). -/
def checkParam (s : State) : Stage := failIf (s.convValue = 0) .badParameter s

/-- The grid registers must describe a grid (R132). -/
def checkGrid (s : State) : Stage := failIf (badDims s s.gridWidth s.gridHeight) .invalidGrid s

/-- The passes of CONV, which raise nothing (R130). -/
def runPasses (s : State) : Stage := .go (convPasses (kernelOf s.convValue) s s.convCount)

/-- CONV (R130). -/
def execConv (s : State) : Host.Outcome State Fault Refusal :=
  .next (((checkParam s).andThen checkGrid).andThen runPasses).ended

end Sys2Proof.Machine
end

