-- ==== Sys2Proof/Machine/Lifecycle.lean ====
section
/-! DEFINITION. NOP, and the illegal command (40_command.md sections 2 and 3). -/

namespace Sys2Proof.Machine

/-- NOP: `finish` (R94). -/
def execNop (s : State) : Host.Outcome State Fault Refusal := .next s.finish

/-- ILLEGAL, any word no row of the opcode map matches: `raise IllegalCommand` (R95). It is no constructor of `Instr`; the
engine step takes it where the decoder rejects the word. -/
def execIllegal (s : State) : Host.Outcome State Fault Refusal := .next (s.raise .illegalCommand)

end Sys2Proof.Machine
end

