-- ==== Sys2Proof/Machine/Parse.lean ====
section
/-! DEFINITION. PARSE and its stages, one definition per rule R102 to R114, which DECODE shares (41_decode.md section 2). -/

namespace Sys2Proof.Machine

/-- Read the file header (R102). -/
def readFileHeader (s : State) : Stage :=
  if s.streamLen < 14 then .stop .readError s else .go (s.setFileHdr s.readFileHdr)

/-- Check the signature (R103). -/
def checkSignature (s : State) : Stage := failIf (s.fileHdr.signature ≠ 0x00004D42) .invalidSignature s

/-- Read the info header (R104). -/
def readInfoHeader (s : State) : Stage :=
  if s.streamLen < 54 then .stop .readError s else .go (s.setInfoHdr s.readInfoHdr)

/-- Check the planes (R105). -/
def checkPlanes (s : State) : Stage := failIf (s.infoHdr.planes ≠ 1) .tooManyPlanes s

/-- Check the important-colour count, unsigned, at every depth (R106). -/
def checkImportant (s : State) : Stage :=
  failIf (s.infoHdr.important.toNat > s.infoHdr.colorsUsed.toNat) .invalidColorTable s

/-- The supported bit depths (R107). -/
abbrev legalDepth (b : Nat) : Prop := b = 1 ∨ b = 4 ∨ b = 8 ∨ b = 16 ∨ b = 24

/-- The depths with a palette (R108, R111). -/
abbrev paletteDepth (b : Nat) : Prop := b = 1 ∨ b = 4 ∨ b = 8

/-- Check the bit depth (R107). -/
def checkDepth (s : State) : Stage := failIf (¬ legalDepth s.bpp) .invalidBitDepth s

/-- The palette entry count a depth demands; used at depths 1, 4 and 8 only (R108, 90_conflicts.md C2). -/
def nPal (b : Nat) : Nat := if b = 1 then 1 else if b = 4 then 16 else 256

/-- Check the palette size (R108). -/
def checkPaletteSize (s : State) : Stage :=
  failIf (paletteDepth s.bpp ∧ s.infoHdr.colorsUsed.toNat ≠ nPal s.bpp) .invalidColorTable s

/-- Check the header size (R109, 90_conflicts.md C4). -/
def checkHeaderSize (s : State) : Stage := failIf (s.infoHdr.headerSize ≠ 40) .invalidHeaderSize s

/-- Check the compression (R110, 90_conflicts.md C4). -/
def checkCompression (s : State) : Stage := failIf (s.infoHdr.compression ≠ 0) .unsupportedCompression s

/-- Load the palette: at depths 1, 4 and 8 only, and only where all of it is present (R111, 90_conflicts.md C3). -/
def loadPalette (s : State) : Stage :=
  if paletteDepth s.bpp then
    if 54 + 4 * s.infoHdr.colorsUsed.toNat > s.streamLen then .stop .readError s
    else .go (s.setPal (Memory.fill s.pal 0 s.streamEntry s.infoHdr.colorsUsed.toNat))
  else .go s

/-- Seek to the pixel data (R112). -/
def seekData (s : State) : Stage := failIf (s.fileHdr.dataOffset.toNat > s.streamLen) .seekError s

/-- Allocate the grid (R113). -/
def allocateGrid (s : State) : Stage := failIf (badDims s s.hdrWidth s.hdrHeight) .allocationError s

/-- Compute the row stride (R114). -/
def computeStride (s : State) : Stage := .go (s.setRowBytes (BitVec.ofNat 32 (rowStride s.hdrWidth s.bpp)))

/-- `ParseHeaders`: the stages in the order of their rules; the first failing check wins (R102 to R114, R155). -/
def parseHeaders (s : State) : Stage :=
  (((((((((((((readFileHeader s).andThen checkSignature).andThen readInfoHeader).andThen checkPlanes).andThen
    checkImportant).andThen checkDepth).andThen checkPaletteSize).andThen checkHeaderSize).andThen
    checkCompression).andThen loadPalette).andThen seekData).andThen allocateGrid).andThen computeStride)

/-- PARSE: `ParseHeaders(); finish` (R100). -/
def execParse (s : State) : Host.Outcome State Fault Refusal := .next (parseHeaders s).ended

end Sys2Proof.Machine
end

