-- ==== Sys2Proof/Machine/Unpack.lean ====
section
/-! DEFINITION. DECODE and its unpack stages, rules R115 to R126 (41_decode.md section 3). -/

namespace Sys2Proof.Machine

/-- Commit the grid: `GRID_W <- W ; GRID_H <- H ; STATUS.CUR_BANK <- 0` (R115). -/
def commitGrid (s : State) : State :=
  { s with gridW := s.infoHdr.width, gridH := s.infoHdr.height, status := { s.status with curBank := .bank0 } }

/-- `Map(1, f)`: the palette's one entry times the bit (R120). -/
def scalePixel (p : Pixel) (f : Nat) : Pixel :=
  ⟨BitVec.ofNat 8 (f * p.r.toNat), BitVec.ofNat 8 (f * p.g.toNat), BitVec.ofNat 8 (f * p.b.toNat)⟩

/-- A field as packed blue, green, red bytes, blue lowest (R122, R123). -/
def bgrPixel (f : Nat) : Pixel :=
  ⟨BitVec.ofNat 8 (f / 65536), BitVec.ofNat 8 (f / 256), BitVec.ofNat 8 f⟩

/-- `Map(bpp, f)` (R120 to R123). At 16 bits f is below 2^16, so red is 0 (R122). No other depth than 1, 4, 8, 16 and 24
reaches it (R107). -/
def State.mapField (s : State) (bpp f : Nat) : Pixel :=
  if bpp = 1 then scalePixel (s.palEntry 0) f
  else if bpp = 4 ∨ bpp = 8 then s.palEntry f
  else bgrPixel f

/-- Pixel x of file row r: the field at row bit `x * bpp`, mapped (R116, R117). -/
def State.rowPixel (s : State) (r x : Nat) : Pixel :=
  s.mapField s.bpp (s.field (s.rowBase r) (x * s.bpp) s.bpp)

/-- Unpack file row r into grid row r of bank 0, left to right (R116, R124). -/
def unpackRow (s : State) (r : Nat) : State :=
  { s with pix0 := Memory.fill s.pix0 (r * s.hdrWidth) (s.rowPixel r) s.hdrWidth }

/-- `ZeroFill(rows)` and `ROWS_DONE <- rows` (R125, R126). -/
def finishRows (s : State) (rows : Nat) : State :=
  { s with
    pix0 := Memory.fillRows s.pix0 s.hdrWidth rows (fun _ _ => Pixel.black) (s.hdrHeight - rows)
    rowsDone := BitVec.ofNat 32 rows }

/-- The row lies wholly inside the stream: the negation of the short-read test (R116). -/
abbrev State.rowFits (s : State) (r : Nat) : Prop := s.rowBase r + s.rowBytes.toNat ≤ s.streamLen

/-- STATUS.TRUNC <- 1 (R116). -/
def State.setTrunc (s : State) : State := { s with status := { s.status with trunc := true } }

/-- The row loop with k rows left, the next being r: it stops at the first short row and drops it whole (R116). -/
def unpackRows (s : State) (r : Nat) : Nat → State
  | 0 => finishRows s r
  | k + 1 => if s.rowFits r then unpackRows (unpackRow s r) (r + 1) k else finishRows s.setTrunc r

/-- `CommitGrid(); UnpackRows()`, which raise nothing (R101, R115, R116). -/
def unpackGrid (s : State) : Stage := .go (unpackRows (commitGrid s) 0 s.hdrHeight)

/-- DECODE: `ParseHeaders(); CommitGrid(); UnpackRows(); finish` (R101). -/
def execDecode (s : State) : Host.Outcome State Fault Refusal := .next ((parseHeaders s).andThen unpackGrid).ended

end Sys2Proof.Machine
end

