-- ==== Sys2Proof/Machine/Engine.lean ====
section
/-! DEFINITION. Whose turn it is: the engine's step, the host's accesses and reset, and one step of the machine. -/

namespace Sys2Proof.Machine

/-- The engine runs a latched word: the command it decodes to, or the illegal command (R92, R93). -/
def runWord (w : Word) (s : State) : Host.Outcome State Fault Refusal :=
  match decodeWord w with
  | .ok i => exec i s
  | .error _ => execIllegal s

/-- The engine's turn: one step if BUSY (R92); in IDLE it waits for a CMD write (R173, log 3). -/
def engineTurn (s : State) : Host.Outcome State Fault Refusal :=
  match s.seq with
  | .idle => .next s
  | .busy w => runWord w s

/-- One turn (R7, R8, R170). -/
def takeTurn (t : Turn) (s : State) : Host.Outcome State Fault Refusal :=
  match t with
  | .host a => .next (s.hostAccess a)
  | .engine => engineTurn s
  | .reset => .next s.takeReset

/-- One step: the next pending turn, or the engine's where none is pending (log 1, log 2). -/
def runTurn (s : State) : Host.Outcome State Fault Refusal :=
  match s.pending with
  | [] => takeTurn .engine s
  | t :: rest => takeTurn t { s with pending := rest }

/-- One step of a machine whose configuration is legal; an illegal one is refused (R9, log 10). -/
def checkedStep (s : State) : Host.Outcome State Fault Refusal :=
  if s.params.wf then runTurn s else .refused .badConfiguration

/-- The state in which the very next step runs the word w: w issued as by a CMD write, and the engine's turn next (R90,
log 4). -/
def State.issueNow (s : State) (w : Word) : State := { s.issue w with pending := .engine :: s.pending }

end Sys2Proof.Machine
end

