-- ==== Sys2Proof/Machine/Step.lean ====
section
/-! DEFINITION. One step of the machine, and the state that runs a given word next. -/

namespace Sys2Proof.Machine

/-- One step: one turn of the host, the engine or reset (R7, R8, R170). -/
def step (s : State) : Host.Outcome State Fault Refusal := checkedStep s

/-- `s` with the low `nbits` bits of `w` issued as its command word, the engine to move next (log 4). -/
def State.withFetchWord (s : State) (nbits w : Nat) : State := s.issueNow (BitVec.ofNat 32 (w % 2 ^ nbits))

end Sys2Proof.Machine
end

