-- ==== Sys2Proof/Safety.lean ====
section
/-! DEFINITION. The terms the claims use: the premise on host faults, the invariant, and reference readings of the spec's
rules that are written apart from the machine (what a stream decodes to, what a pass computes). No meaning uses them. -/

namespace Sys2Proof.Machine

/-- The premise R178 asks of every claim: no host fault has happened. -/
abbrev State.noHostFault (s : State) : Prop := s.hostFault = false

/-! ### The stream, read from the raw bytes (R76 to R80) -/

/-- The raw header fields of the stream in IN, by stream offset (R76, R77). -/
def State.streamOffset (s : State) : Nat := s.memRead 10 4
/-- The raw width, unsigned (R77). -/
def State.streamWidth (s : State) : Nat := s.memRead 18 4
/-- The raw height, unsigned (R77). -/
def State.streamHeight (s : State) : Nat := s.memRead 22 4
/-- The raw bits per pixel (R77). -/
def State.streamBpp (s : State) : Nat := s.memRead 28 2
/-- The raw palette colour count (R77). -/
def State.streamColors (s : State) : Nat := s.memRead 46 4
/-- The row stride the raw header gives (R79). -/
def State.streamStride (s : State) : Nat := rowStride s.streamWidth s.streamBpp

/-- The first failing check of PARSE and DECODE, in the order of R155, on the raw bytes; `none` where all pass. -/
def State.headerError (s : State) : Option EngineError :=
  if s.streamLen < 14 then some .readError
  else if s.memRead 0 2 ≠ 19778 then some .invalidSignature
  else if s.streamLen < 54 then some .readError
  else if s.memRead 26 2 ≠ 1 then some .tooManyPlanes
  else if s.memRead 50 4 > s.streamColors then some .invalidColorTable
  else if ¬ (s.streamBpp = 1 ∨ s.streamBpp = 4 ∨ s.streamBpp = 8 ∨ s.streamBpp = 16 ∨ s.streamBpp = 24) then
    some .invalidBitDepth
  else if (s.streamBpp = 1 ∧ s.streamColors ≠ 1) ∨ (s.streamBpp = 4 ∧ s.streamColors ≠ 16) ∨
      (s.streamBpp = 8 ∧ s.streamColors ≠ 256) then some .invalidColorTable
  else if s.memRead 14 4 ≠ 40 then some .invalidHeaderSize
  else if s.memRead 30 4 ≠ 0 then some .unsupportedCompression
  else if s.streamBpp ≤ 8 ∧ 54 + 4 * s.streamColors > s.streamLen then some .readError
  else if s.streamOffset > s.streamLen then some .seekError
  else if s.streamWidth = 0 ∨ s.streamHeight = 0 ∨ s.streamWidth * s.streamHeight > s.params.gridCap then
    some .allocationError
  else none

/-- Bit i of a byte (R119). -/
def byteBit (v : Byte) (i : Nat) : Nat := v.toNat / 2 ^ i % 2

/-- The byte-by-byte form of a field (R119). -/
def State.bitField (s : State) (base p b : Nat) : Nat :=
  ((List.range b).map fun k => byteBit (s.inByte (base + (p + k) / 8)) ((p + k) % 8) * 2 ^ k).sum

/-- Pixel x of file row r, from the bytes of the stream and its palette entries alone; the claim that uses it says which
bytes an entry is (R79, R80, R119, R128). -/
def State.streamPixel (s : State) (entry : Nat → Pixel) (r x : Nat) : Pixel :=
  let f := s.bitField (s.streamOffset + r * s.streamStride) (x * s.streamBpp) s.streamBpp
  if s.streamBpp = 1 then (if f = 0 then Pixel.black else entry 0)
  else if s.streamBpp = 4 ∨ s.streamBpp = 8 then entry f
  else if s.streamBpp = 16 then { r := 0, g := BitVec.ofNat 8 (f / 256), b := BitVec.ofNat 8 f }
  else { r := BitVec.ofNat 8 (f / 65536), g := BitVec.ofNat 8 (f / 256), b := BitVec.ofNat 8 f }

/-- How many full rows the stream holds, at most the height (R116, R126). -/
def State.fullRows (s : State) : Nat := min s.streamHeight ((s.streamLen - s.streamOffset) / s.streamStride)

/-- PAL after its load: at depths 1, 4 and 8 the first entries are the stream's, the rest stay; the claim that uses it says
which bytes an entry is (R111). -/
def State.loadedEntry (s : State) (entry : Nat → Pixel) (i : Nat) : Pixel :=
  if s.streamBpp ≤ 8 ∧ i < s.streamColors then entry i else s.palEntry i

/-! ### Convolution on a plain two-dimensional grid (R136 to R140) -/

/-- A grid by row and column. -/
abbrev Grid := Nat → Nat → Pixel

/-- The grid a bank holds for a width: pixel (x, y) at `y * w + x` (R41). -/
def State.gridOf (s : State) (b : Bank) (w : Nat) : Grid := fun y x => s.pixel b (y * w + x)

/-- One channel of a grid as integers. -/
def Grid.lane (g : Grid) (c : Channel) (y x : Nat) : Int := ((g y x).chan c).toNat

/-- The blur sum of nine taps, weights 1 2 1, 2 4 2, 1 2 1 (R133, R138). -/
def blurSum (l : Nat → Nat → Int) (y x : Nat) : Int :=
  l (y - 1) (x - 1) + 2 * l (y - 1) x + l (y - 1) (x + 1) + 2 * l y (x - 1) + 4 * l y x + 2 * l y (x + 1) +
    l (y + 1) (x - 1) + 2 * l (y + 1) x + l (y + 1) (x + 1)

/-- The sharpen sum of five taps, centre 5, the four neighbours -1 (R134, R138). -/
def sharpSum (l : Nat → Nat → Int) (y x : Nat) : Int :=
  5 * l y x - l (y - 1) x - l y (x - 1) - l y (x + 1) - l (y + 1) x

/-- The sum the value v selects (R135). -/
def gridSum (v : Int) (l : Nat → Nat → Int) (y x : Nat) : Int := if v > 0 then blurSum l y x else sharpSum l y x

/-- The stored channel for a sum (R139, R140). -/
def gridOut (v : Int) (clamp : Bool) (n : Int) : Byte :=
  if v > 0 then BitVec.ofInt 8 (n / 16)
  else if clamp then BitVec.ofInt 8 (max 0 (min n 255)) else BitVec.ofInt 8 (n % 256)

/-- A pixel that is not in the border (R17, R137). -/
abbrev interiorPixel (w h y x : Nat) : Prop := 1 ≤ x ∧ x + 1 < w ∧ 1 ≤ y ∧ y + 1 < h

/-- One pass over a grid (R136 to R140). -/
def gridPass (v : Int) (clamp : Bool) (w h : Nat) (g : Grid) : Grid := fun y x =>
  if interiorPixel w h y x then
    ⟨gridOut v clamp (gridSum v (g.lane .red) y x), gridOut v clamp (gridSum v (g.lane .green) y x),
      gridOut v clamp (gridSum v (g.lane .blue) y x)⟩
  else g y x

/-- n passes over a grid; "pass 0" is the grid before (R141). -/
def gridPasses (v : Int) (clamp : Bool) (w h : Nat) (g : Grid) : Nat → Grid
  | 0 => g
  | n + 1 => gridPass v clamp w h (gridPasses v clamp w h g n)

/-- Some interior channel sum of a pass over g lies outside [0, 255] (R140). -/
def gridOut255 (v : Int) (w h : Nat) (g : Grid) : Prop :=
  ∃ y x c, interiorPixel w h y x ∧ (gridSum v (g.lane c) y x < 0 ∨ 255 < gridSum v (g.lane c) y x)

/-- A sum computed by a blur in two one-dimensional passes with exact intermediates (R142). -/
def separableBlurSum (l : Nat → Nat → Int) (y x : Nat) : Int :=
  let row := fun y => l y (x - 1) + 2 * l y x + l y (x + 1)
  row (y - 1) + 2 * row y + row (y + 1)

/-! ### The invariant -/

/-- What every step keeps: a legal configuration, memories in canonical form and inside their windows, IN_LEN inside the
window (R27), the error code consistent (R39, R150), the flags of a running command as the start effects left them (R91)
with the host not yet synchronised (R176), ROW_BYTES a multiple of 4 (R114) and the 16-bit shadows zero-extended (R30, R31). -/
structure State.Inv (s : State) : Prop where
  params : s.params.wf = true
  inWf : Memory.wf s.inMem
  palWf : Memory.wf s.pal
  pix0Wf : Memory.wf s.pix0
  pix1Wf : Memory.wf s.pix1
  inBelow : Memory.below s.inMem s.params.inCap
  palBelow : Memory.below s.pal Config.palDepth
  pix0Below : Memory.below s.pix0 s.params.gridCap
  pix1Below : Memory.below s.pix1 s.params.gridCap
  inLen : s.inLen.toNat ≤ s.params.inCap
  code : s.status.errCode.toNat ≤ 12
  errCode : s.status.err = true ↔ s.status.errCode ≠ 0
  busySync : s.seq ≠ .idle → s.awaitSync = true
  busyFlags : s.seq ≠ .idle → s.status.done = false ∧ s.status.err = false ∧ s.status.trunc = false ∧
    s.status.range = false
  rowBytes : s.rowBytes.toNat % 4 = 0
  signature : s.fileHdr.signature.toNat < 65536
  planes : s.infoHdr.planes.toNat < 65536
  bpp : s.infoHdr.bpp.toNat < 65536

end Sys2Proof.Machine
end

