-- ==== Sys2Proof/Certificates/Slice0/Obligations.lean ====
section
/-! DEFINITION. The statements for the provers, each from a numbered rule of the spec. Every statement about the machine takes
"no host fault" as a premise, as R178 asks, but for those on the mark itself and on the configuration; none speaks of a
program. -/

open Sys2Proof Sys2Proof.Machine

/-! ### Encoding and dispatch -/

/-- R70 to R73: words written out from the opcode map decode to their commands, words with OP 4, OP 15 or RSVD not 0 are
rejected. The spec has one name, ILLEGAL; that such a word is rejected under the names reservedOp and reservedBits is the
model's choice (log 17). -/
def Obligations.WordsOfTheOpcodeMapDecode : Prop :=
  decodeWord 0x00000000 = .ok .nop ∧ decodeWord 0x00000001 = .ok .parse ∧ decodeWord 0x00000002 = .ok .decode ∧
    decodeWord 0x00000003 = .ok .conv ∧ decodeWord 0x00000004 = .error (.reservedOp 4) ∧
    decodeWord 0x0000000F = .error (.reservedOp 15) ∧ decodeWord 0x00000012 = .error .reservedBits ∧
    decodeWord 0x80000002 = .error .reservedBits

/-- R71, R72: decoding undoes encoding, and every word that decodes is the word of its command. -/
def Obligations.DecodeAndEncodeAgree : Prop :=
  (∀ i : Instr, decodeWord (encode i) = .ok i) ∧ ∀ (w : Word) (i : Instr), decodeWord w = .ok i → w = encode i

/-- R73: a word is illegal exactly where OP is 4 to 15 or RSVD is not 0. -/
def Obligations.IllegalWordsAreTheReservedOnes : Prop :=
  ∀ w : Word, (∃ e, decodeWord w = .error e) ↔ (4 ≤ w.toNat % 16 ∨ w.toNat / 16 ≠ 0)

/-- R92, R93: a step of a BUSY engine runs the meaning of the command its word decodes to, in the state without the turn it
used; with nothing pending the turn is the engine's (log 2). -/
def Obligations.StepRunsTheDecodedCommand : Prop :=
  ∀ (s : State) (w : Word) (i : Instr), s.params.wf = true → s.noHostFault → s.seq = .busy w → decodeWord w = .ok i →
    (∀ rest, s.pending = .engine :: rest → step s = exec i { s with pending := rest }) ∧
      (s.pending = [] → step s = exec i s)

/-- R93: the engine's turn selects the command by the word: four words, and the illegal command for every other. Its turn
comes where the list of turns says so and, by the model's choice, where no turn is pending (log 1, log 2). -/
def Obligations.EngineDispatchesOnTheWord : Prop :=
  ∀ (s : State) (w : Word), s.params.wf = true → s.noHostFault → s.seq = .busy w →
    let turn : State → Host.Outcome State Fault Refusal := fun u =>
      if w = 0x00000000 then exec .nop u
      else if w = 0x00000001 then exec .parse u
      else if w = 0x00000002 then exec .decode u
      else if w = 0x00000003 then exec .conv u
      else .next (u.raise .illegalCommand)
    (∀ rest, s.pending = .engine :: rest → step s = turn { s with pending := rest }) ∧
      (s.pending = [] → step s = turn s)

/-- The word placed by `withFetchWord` is the one the very next step runs (log 4). -/
def Obligations.PlacedWordRunsNext : Prop :=
  ∀ (s : State) (w : Word) (i : Instr), s.params.wf = true → s.noHostFault → decodeWord w = .ok i →
    step (s.withFetchWord 32 w.toNat) = exec i (s.issue w)

/-! ### The life of a command -/

/-- R91: the start effects happen in the host step of the CMD write; CUR_BANK and LOST are unchanged and irq is low. -/
def Obligations.CmdWriteStartsTheCommand : Prop :=
  ∀ (s : State) (w : Word) (rest : List Turn), s.params.wf = true → s.noHostFault → s.seq = .idle →
    s.pending = .host (.write .four 0x00000004 w) :: rest →
    ∃ t, step s = .next t ∧
      t = { s with
        pending := rest
        seq := .busy w
        awaitSync := true
        response := some (.write .okay)
        status := { s.status with done := false, err := false, errCode := 0, trunc := false, range := false } } ∧
      (statusWord t.seq t.status).getLsbD 0 = true ∧ t.irq = false

/-- R98: a CMD write while BUSY changes LOST only, and LOST falls only by a write of STATUS with bit 6 set, or at reset. -/
def Obligations.CmdWriteWhileBusyIsDropped : Prop :=
  (∀ (s : State) (w v : Word) (rest : List Turn), s.params.wf = true → s.noHostFault → s.seq = .busy w →
    s.pending = .host (.write .four 0x00000004 v) :: rest →
    step s = .next { s with
      pending := rest
      response := some (.write .okay)
      status := { s.status with lost := true } }) ∧
  (∀ s t : State, s.noHostFault → step s = .next t → s.status.lost = true → t.status.lost = false →
    (∃ rest v, s.pending = .host (.write .four 0x00000008 v) :: rest ∧ v.getLsbD 6 = true) ∨
      ∃ rest, s.pending = .reset :: rest)

/-- R94: NOP only ends. From IDLE, its CMD write and the engine's turn leave DONE alone set among the result flags. -/
def Obligations.NopLeavesACleanStatus : Prop :=
  (∀ s : State, s.noHostFault →
    exec .nop s = .next { s with seq := .idle, status := { s.status with done := true } }) ∧
  (∀ (s : State) (rest : List Turn), s.params.wf = true → s.noHostFault → s.seq = .idle →
    s.pending = .host (.write .four 0x00000004 0x00000000) :: .engine :: rest →
    Sys2Proof.core.run 2 s = .next { s with
      pending := rest
      awaitSync := true
      response := some (.write .okay)
      status := { s.status with done := true, err := false, errCode := 0, trunc := false, range := false } })

/-- R95: with an illegal word in SEQ the engine's turn ends with IllegalCommand, code 11, and writes nothing but STATUS and
SEQ. Its turn comes where the list of turns says so and, by the model's choice, where no turn is pending (log 1, log 2). -/
def Obligations.IllegalWordEndsWithIllegalCommand : Prop :=
  ∀ (s : State) (w : Word), s.params.wf = true → s.noHostFault → s.seq = .busy w →
    (4 ≤ w.toNat % 16 ∨ w.toNat / 16 ≠ 0) →
    let ended : State := { s with
      seq := .idle
      status := { s.status with err := true, errCode := 11, done := true } }
    (∀ rest, s.pending = .engine :: rest → step s = .next { ended with pending := rest }) ∧
      (s.pending = [] → step s = .next ended)

/-- R92: every command, whatever its state, comes to its end: IDLE, with DONE set and LOST as before. -/
def Obligations.EveryCommandEnds : Prop :=
  ∀ (i : Instr) (s : State), s.noHostFault →
    ∃ t, exec i s = .next t ∧ t.seq = .idle ∧ t.status.done = true ∧ t.status.lost = s.status.lost ∧
      (statusWord t.seq t.status).getLsbD 0 = false

/-- R21: SEQ changes only by a CMD write when IDLE, which latches the word, by the engine's turn, also where none is pending
(log 2), and by reset. -/
def Obligations.SequencerMovesOnlyAsTheSpecSays : Prop :=
  ∀ s t : State, s.noHostFault → step s = .next t → t.seq ≠ s.seq →
    (s.seq = .idle ∧ ∃ rest w, s.pending = .host (.write .four 0x00000004 w) :: rest ∧ t.seq = .busy w) ∨
      (s.seq ≠ .idle ∧ t.seq = .idle ∧
        (s.pending = [] ∨ ∃ rest, s.pending = .engine :: rest ∨ s.pending = .reset :: rest))

/-- R45: what each command may not change. IN, IN_LEN, CFG, PARAM and LOST stay for every command; the rest row by row. -/
def Obligations.CommandsKeepWhatTheyMayNotChange : Prop :=
  ∀ (i : Instr) (s t : State), s.noHostFault → exec i s = .next t →
    ((∀ a, t.inByte a = s.inByte a) ∧ t.inLen = s.inLen ∧ t.cfg = s.cfg ∧ t.param = s.param ∧ t.params = s.params ∧
      t.status.lost = s.status.lost ∧ t.hostFault = s.hostFault ∧ t.awaitSync = s.awaitSync ∧ t.pending = s.pending ∧
      t.response = s.response) ∧
    (i ≠ .decode → t.status.trunc = s.status.trunc ∧ t.gridW = s.gridW ∧ t.gridH = s.gridH ∧ t.rowsDone = s.rowsDone) ∧
    (i ≠ .conv → t.status.range = s.status.range ∧ ∀ k, t.pixel .bank1 k = s.pixel .bank1 k) ∧
    (i = .nop ∨ i = .parse → t.status.curBank = s.status.curBank ∧ ∀ k, t.pixel .bank0 k = s.pixel .bank0 k) ∧
    (i = .nop ∨ i = .conv → t.fileHdr = s.fileHdr ∧ t.infoHdr = s.infoHdr ∧ t.rowBytes = s.rowBytes ∧
      ∀ k, t.palEntry k = s.palEntry k)

/-! ### PARSE and DECODE -/

/-- R13, R30, R102: after PARSE or DECODE of a stream of 14 bytes or more the file-header shadows hold the little-endian
fields at offsets 0, 2, 6 and 10, whatever the later checks say; after a shorter one they are as before. -/
def Obligations.FileHeaderShadowsHoldTheRawFields : Prop :=
  ∀ (s : State) (i : Instr), s.noHostFault → (i = .parse ∨ i = .decode) →
    let b := fun a => (s.inByte a).toNat
    ∃ t, exec i s = .next t ∧
      (14 ≤ s.inLen.toNat →
        t.fileHdr.signature.toNat = b 0 + b 1 * 2 ^ 8 ∧
          t.fileHdr.fileSize.toNat = b 2 + b 3 * 2 ^ 8 + b 4 * 2 ^ 16 + b 5 * 2 ^ 24 ∧
          t.fileHdr.reserved.toNat = b 6 + b 7 * 2 ^ 8 + b 8 * 2 ^ 16 + b 9 * 2 ^ 24 ∧
          t.fileHdr.dataOffset.toNat = b 10 + b 11 * 2 ^ 8 + b 12 * 2 ^ 16 + b 13 * 2 ^ 24) ∧
      (s.inLen.toNat < 14 → t.fileHdr = s.fileHdr)

/-- R31, R103, R104: after PARSE or DECODE of a stream of 54 bytes or more whose first two are 0x42, 0x4D the info-header
shadows hold the fields at offsets 14 to 53, planes and bits per pixel 16 bits wide, the others 32, whatever the later checks
say; after any other stream they are as before. -/
def Obligations.InfoHeaderShadowsHoldTheRawFields : Prop :=
  ∀ (s : State) (i : Instr), s.noHostFault → (i = .parse ∨ i = .decode) →
    let b := fun a => (s.inByte a).toNat
    let w := fun a => b a + b (a + 1) * 2 ^ 8 + b (a + 2) * 2 ^ 16 + b (a + 3) * 2 ^ 24
    ∃ t, exec i s = .next t ∧
      (54 ≤ s.inLen.toNat → s.inByte 0 = 0x42 → s.inByte 1 = 0x4D →
        t.infoHdr.headerSize.toNat = w 14 ∧ t.infoHdr.width.toNat = w 18 ∧ t.infoHdr.height.toNat = w 22 ∧
          t.infoHdr.planes.toNat = b 26 + b 27 * 2 ^ 8 ∧ t.infoHdr.bpp.toNat = b 28 + b 29 * 2 ^ 8 ∧
          t.infoHdr.compression.toNat = w 30 ∧ t.infoHdr.imageSize.toNat = w 34 ∧ t.infoHdr.xppm.toNat = w 38 ∧
          t.infoHdr.yppm.toNat = w 42 ∧ t.infoHdr.colorsUsed.toNat = w 46 ∧ t.infoHdr.important.toNat = w 50) ∧
      ((s.inLen.toNat < 54 ∨ s.inByte 0 ≠ 0x42 ∨ s.inByte 1 ≠ 0x4D) → t.infoHdr = s.infoHdr)

/-- R78, R150, R153, R155: where a check fails, PARSE and DECODE end alike, with the first failing check's error and the number
R150 gives it; the shadows of the headers read and the palette, if it was loaded (blue, green, red from 54 + 4i on), stand, and
nothing else but STATUS and SEQ changes. -/
def Obligations.FirstFailingCheckEndsParseAndDecode : Prop :=
  ∀ (s : State) (e : EngineError), s.noHostFault → s.headerError = some e →
    let entry : Nat → Pixel := fun i =>
      { r := s.inByte (54 + 4 * i + 2), g := s.inByte (54 + 4 * i + 1), b := s.inByte (54 + 4 * i) }
    ∃ (t : State) (code : BitVec 8), exec .parse s = .next t ∧ exec .decode s = .next t ∧
      (e, code) ∈ ([(.invalidSignature, 1), (.tooManyPlanes, 2), (.invalidColorTable, 3), (.invalidBitDepth, 4),
        (.invalidHeaderSize, 5), (.unsupportedCompression, 6), (.readError, 7), (.seekError, 8),
        (.allocationError, 9)] : List (EngineError × BitVec 8)) ∧
      t = { s with
        seq := .idle
        status := { s.status with err := true, errCode := code, done := true }
        fileHdr := if s.streamLen < 14 then s.fileHdr else s.readFileHdr
        infoHdr := if s.streamLen < 54 ∨ s.memRead 0 2 ≠ 19778 then s.infoHdr else s.readInfoHdr
        pal := t.pal } ∧
      ∀ i, t.palEntry i = if e = .seekError ∨ e = .allocationError then s.loadedEntry entry i else s.palEntry i

/-- R78, R100, R111, R114: PARSE of a stream that passes every check writes the shadows, the palette (blue, green, red from
54 + 4i on) and the row stride, and ends without error; everything else but SEQ and DONE is as before. -/
def Obligations.ParseLoadsHeadersPaletteAndStride : Prop :=
  ∀ s : State, s.params.wf = true → s.noHostFault → s.headerError = none →
    let entry : Nat → Pixel := fun i =>
      { r := s.inByte (54 + 4 * i + 2), g := s.inByte (54 + 4 * i + 1), b := s.inByte (54 + 4 * i) }
    ∃ t, exec .parse s = .next t ∧
      t = { s with
        seq := .idle
        status := { s.status with done := true }
        fileHdr := s.readFileHdr
        infoHdr := s.readInfoHdr
        pal := t.pal
        rowBytes := t.rowBytes } ∧
      (∀ i, t.palEntry i = s.loadedEntry entry i) ∧
      t.rowBytes.toNat = (s.streamWidth * s.streamBpp + 31) / 32 * 4 ∧
      t.rowBytes.toNat % 4 = 0 ∧ s.streamWidth * s.streamBpp ≤ 8 * t.rowBytes.toNat

/-- R78, R101, R115, R116, R120 to R126: DECODE of a stream that passes every check leaves in bank 0 the grid the stream's
bytes say (a palette entry is blue, green, red from 54 + 4i on), row by row in file order, black rows after the full ones, and
counts the full rows. TRUNC is set where a row is missing; where it was set before it stays set, which is the model's choice
for states that `State.Inv` excludes (log 16). -/
def Obligations.DecodeBuildsTheGridOfTheStream : Prop :=
  ∀ s : State, s.params.wf = true → s.noHostFault → s.headerError = none →
    let entry : Nat → Pixel := fun i =>
      { r := s.inByte (54 + 4 * i + 2), g := s.inByte (54 + 4 * i + 1), b := s.inByte (54 + 4 * i) }
    ∃ t, exec .decode s = .next t ∧ t.seq = .idle ∧
      t.status = { s.status with
        done := true
        curBank := .bank0
        trunc := s.status.trunc || decide (s.fullRows < s.streamHeight) } ∧
      t.gridW.toNat = s.streamWidth ∧ t.gridH.toNat = s.streamHeight ∧ t.rowsDone.toNat = s.fullRows ∧
      t.fileHdr = s.readFileHdr ∧ t.infoHdr = s.readInfoHdr ∧ t.rowBytes.toNat = s.streamStride ∧
      (∀ i, t.palEntry i = s.loadedEntry entry i) ∧
      ∀ y x, y < s.streamHeight → x < s.streamWidth →
        t.pixel .bank0 (y * s.streamWidth + x) = if y < s.fullRows then s.streamPixel entry y x else Pixel.black

/-- R101, R125, R129: whatever DECODE's outcome, bank 1 and the pixels of bank 0 beyond the grid are as before, and after an
error so are GRID_W, GRID_H, CUR_BANK, ROWS_DONE and all of bank 0. -/
def Obligations.DecodeTouchesOnlyItsGrid : Prop :=
  ∀ s : State, s.noHostFault →
    ∃ t, exec .decode s = .next t ∧ (∀ i, t.pixel .bank1 i = s.pixel .bank1 i) ∧
      (∀ i, s.streamWidth * s.streamHeight ≤ i → t.pixel .bank0 i = s.pixel .bank0 i) ∧
      (s.headerError ≠ none → t.gridW = s.gridW ∧ t.gridH = s.gridH ∧ t.status.curBank = s.status.curBank ∧
        t.rowsDone = s.rowsDone ∧ t.rowBytes = s.rowBytes ∧ ∀ i, t.pixel .bank0 i = s.pixel .bank0 i)

/-- R129: two states with the same IN_LEN, GRID_CAP and bytes below IN_LEN fail the same check or decode to the same grid,
whatever else they hold. -/
def Obligations.DecodedGridDependsOnTheStreamOnly : Prop :=
  ∀ s u : State, s.params.wf = true → u.params.wf = true → s.noHostFault → u.noHostFault →
    s.inLen = u.inLen → s.params.gridCap = u.params.gridCap →
    (∀ a < s.inLen.toNat, s.inByte a = u.inByte a) →
    s.headerError = u.headerError ∧
      (s.headerError = none →
        ∃ t v, exec .decode s = .next t ∧ exec .decode u = .next v ∧ t.gridW = v.gridW ∧ t.gridH = v.gridH ∧
          t.status.curBank = v.status.curBank ∧ t.rowsDone = v.rowsDone ∧
          ∀ i < t.gridW.toNat * t.gridH.toNat, t.pixel .bank0 i = v.pixel .bank0 i)

/-- R119: the field cut from one or two words is bits p to p+b-1 of the row as a little-endian bit string, for every width
up to 32; so in a row of ones every field is all ones. -/
def Obligations.FieldIsTheRowsBitString : Prop :=
  (∀ (s : State) (base p b : Nat), b ≤ 32 → s.field base p b = s.bitField base p b) ∧
  (∀ (s : State) (base p b : Nat), b ≤ 32 → (∀ a, base ≤ a → a ≤ base + (p + b) / 8 → s.inByte a = 0xFF) →
    s.field base p b = 2 ^ b - 1)

/-! ### CONV -/

/-- R131, R132: PARAM = 0 is BadParameter, before any look at the grid; then dimensions that describe no grid are
InvalidGrid. Nothing but STATUS and SEQ changes. -/
def Obligations.ConvRejectsZeroThenBadGrid : Prop :=
  ∀ s : State, s.noHostFault →
    (s.param = 0 → exec .conv s = .next { s with
      seq := .idle
      status := { s.status with err := true, errCode := 10, done := true } }) ∧
    (s.param ≠ 0 →
      (s.gridW.toNat = 0 ∨ s.gridH.toNat = 0 ∨ s.gridW.toNat * s.gridH.toNat > s.params.gridCap) →
      exec .conv s = .next { s with
        seq := .idle
        status := { s.status with err := true, errCode := 12, done := true } })

/-- R130, R135 to R141: with PARAM not 0 and a grid present, CONV completes; the current bank holds the result of |v|
passes on the plain grid, the other bank that of one pass less, both banks are unchanged beyond the grid, and CUR_BANK has
flipped |v| times. -/
def Obligations.ConvComputesThePassesOfTheGrid : Prop :=
  ∀ s : State, s.noHostFault → s.param ≠ 0 → 0 < s.gridW.toNat → 0 < s.gridH.toNat →
    s.gridW.toNat * s.gridH.toNat ≤ s.params.gridCap →
    let v := s.param.toInt
    let n := v.natAbs
    let w := s.gridW.toNat
    let h := s.gridH.toNat
    let g := s.gridOf s.status.curBank w
    ∃ t, exec .conv s = .next t ∧ t.seq = .idle ∧ t.status.done = true ∧ t.status.err = s.status.err ∧
      t.status.errCode = s.status.errCode ∧
      t.status.curBank = (if n % 2 = 1 then s.status.curBank.other else s.status.curBank) ∧
      (∀ y x, y < h → x < w →
        t.pixel t.status.curBank (y * w + x) = gridPasses v s.cfg.sharpClamp w h g n y x ∧
          t.pixel t.status.curBank.other (y * w + x) = gridPasses v s.cfg.sharpClamp w h g (n - 1) y x) ∧
      ∀ b i, w * h ≤ i → t.pixel b i = s.pixel b i

/-- R141, R144: CONV changes no pixel at an index of W * H or more, in either bank, and nothing but the banks, RANGE,
CUR_BANK, SEQ and DONE. -/
def Obligations.ConvTouchesOnlyTheGrid : Prop :=
  ∀ s : State, s.noHostFault → s.param ≠ 0 → 0 < s.gridW.toNat → 0 < s.gridH.toNat →
    s.gridW.toNat * s.gridH.toNat ≤ s.params.gridCap →
    ∃ t, exec .conv s = .next t ∧
      t = { s with
        seq := .idle
        status := { s.status with done := true, range := t.status.range, curBank := t.status.curBank }
        pix0 := t.pix0
        pix1 := t.pix1 } ∧
      ∀ b i, s.gridW.toNat * s.gridH.toNat ≤ i → t.pixel b i = s.pixel b i

/-- R139, R140: after CONV, RANGE is set exactly where it was set before or some pass of a sharpen had an interior channel
sum outside [0, 255]; blur never sets it. That it stays set where it was set before is the model's choice for states that
`State.Inv` excludes (log 16). -/
def Obligations.RangeFlagsSharpenSumsOutside : Prop :=
  ∀ s : State, s.noHostFault → s.param ≠ 0 → 0 < s.gridW.toNat → 0 < s.gridH.toNat →
    s.gridW.toNat * s.gridH.toNat ≤ s.params.gridCap →
    let v := s.param.toInt
    let g := s.gridOf s.status.curBank s.gridW.toNat
    ∃ t, exec .conv s = .next t ∧
      (t.status.range = true ↔ s.status.range = true ∨
        (v < 0 ∧ ∃ n < v.natAbs, gridOut255 v s.gridW.toNat s.gridH.toNat
          (gridPasses v s.cfg.sharpClamp s.gridW.toNat s.gridH.toNat g n)))

/-- R137: after any number of passes every border pixel holds the value it had before the first. -/
def Obligations.ConvKeepsTheBorder : Prop :=
  ∀ s : State, s.noHostFault → s.param ≠ 0 → 0 < s.gridW.toNat → 0 < s.gridH.toNat →
    s.gridW.toNat * s.gridH.toNat ≤ s.params.gridCap →
    ∃ t, exec .conv s = .next t ∧
      ∀ y x, y < s.gridH.toNat → x < s.gridW.toNat →
        (x = 0 ∨ y = 0 ∨ x = s.gridW.toNat - 1 ∨ y = s.gridH.toNat - 1) →
        t.pixel t.status.curBank (y * s.gridW.toNat + x) = s.pixel s.status.curBank (y * s.gridW.toNat + x)

/-- R143: a grid with W ≤ 2 or H ≤ 2 has no interior: every pass copies it, so CONV leaves the grid the same in both banks,
flips CUR_BANK N mod 2 times and does not set RANGE. -/
def Obligations.ConvCopiesAGridWithoutInterior : Prop :=
  ∀ s : State, s.noHostFault → s.param ≠ 0 → 0 < s.gridW.toNat → 0 < s.gridH.toNat →
    s.gridW.toNat * s.gridH.toNat ≤ s.params.gridCap → (s.gridW.toNat ≤ 2 ∨ s.gridH.toNat ≤ 2) →
    ∃ t, exec .conv s = .next t ∧ t.status.range = s.status.range ∧
      t.status.curBank = (if s.param.toInt.natAbs % 2 = 1 then s.status.curBank.other else s.status.curBank) ∧
      ∀ i < s.gridW.toNat * s.gridH.toNat, t.pixel t.status.curBank i = s.pixel s.status.curBank i ∧
        t.pixel t.status.curBank.other i = s.pixel s.status.curBank i

/-- R133, R134: the weights of each kernel sum to its divisor, so both kernels leave a constant grid as it is. -/
def Obligations.ConvFixesAConstantGrid : Prop :=
  ∀ (s : State) (p : Pixel), s.noHostFault → s.param ≠ 0 → 0 < s.gridW.toNat → 0 < s.gridH.toNat →
    s.gridW.toNat * s.gridH.toNat ≤ s.params.gridCap →
    (∀ i < s.gridW.toNat * s.gridH.toNat, s.pixel s.status.curBank i = p) →
    ∃ t, exec .conv s = .next t ∧ t.status.range = s.status.range ∧
      ∀ i < s.gridW.toNat * s.gridH.toNat, t.pixel t.status.curBank i = p

/-- R138: the channels are independent lanes: two grids that agree on one channel agree on it after CONV. -/
def Obligations.ConvChannelsAreIndependent : Prop :=
  ∀ (s u : State) (c : Channel), s.noHostFault → u.noHostFault → s.param ≠ 0 → 0 < s.gridW.toNat → 0 < s.gridH.toNat →
    s.gridW.toNat * s.gridH.toNat ≤ s.params.gridCap → u.params.gridCap = s.params.gridCap → u.param = s.param →
    u.gridW = s.gridW → u.gridH = s.gridH → u.cfg.sharpClamp = s.cfg.sharpClamp → u.status.curBank = s.status.curBank →
    (∀ i < s.gridW.toNat * s.gridH.toNat,
      (s.pixel s.status.curBank i).chan c = (u.pixel u.status.curBank i).chan c) →
    ∃ t q, exec .conv s = .next t ∧ exec .conv u = .next q ∧ t.status.curBank = q.status.curBank ∧
      ∀ i < s.gridW.toNat * s.gridH.toNat,
        (t.pixel t.status.curBank i).chan c = (q.pixel q.status.curBank i).chan c

/-- R138, R139: a blur sum is in [0, 4080], so its stored value is exactly `s div 16`; a sharpen sum is in [-1020, 1275]. -/
def Obligations.ConvSumsStayInTheirRanges : Prop :=
  ∀ (px : Nat → Pixel) (w x y : Nat) (c : Channel),
    (0 ≤ convSum .blur px w x y c ∧ convSum .blur px w x y c ≤ 4080) ∧
      ((outBlur (convSum .blur px w x y c)).toNat : Int) = convSum .blur px w x y c / 16 ∧
      (-1020 ≤ convSum .sharpen px w x y c ∧ convSum .sharpen px w x y c ≤ 1275)

/-- R140: WRAP stores `s mod 256`, CLAMP stores s clamped to [0, 255], and a value in range is stored unchanged by both. -/
def Obligations.SharpenStoresWrappedOrClamped : Prop :=
  ∀ n : Int,
    ((outSharp false n).toNat : Int) = n % 256 ∧ ((outSharp true n).toNat : Int) = max 0 (min 255 n) ∧
      (0 ≤ n → n ≤ 255 → ((outSharp false n).toNat : Int) = n ∧ ((outSharp true n).toNat : Int) = n)

/-- R142: the blur kernel is separable with exact intermediates; the sharpen kernel is the product of no column and row. -/
def Obligations.OnlyTheBlurKernelIsSeparable : Prop :=
  (∀ (px : Nat → Pixel) (w x y : Nat) (c : Channel),
    convSum .blur px w x y c = separableBlurSum (fun v u => ((px (v * w + u)).chan c).toNat) y x) ∧
  ¬ ∃ a b : Nat → Rat, ∀ i < 3, ∀ j < 3, ((Kernel.weight .sharpen i j : Int) : Rat) = a i * b j

/-! ### The host's accesses -/

/-- R24, R63, R177: a read of STATUS answers in every state with the flags in their bits, and where BUSY = 0 it is the
synchronising read; nothing else changes. -/
def Obligations.StatusReadShowsTheFlags : Prop :=
  ∀ (s : State) (rest : List Turn), s.params.wf = true → s.noHostFault →
    s.pending = .host (.read .four 0x00000008) :: rest →
    ∃ w : Word, step s = .next { s with
        pending := rest
        awaitSync := (if s.seq = .idle then false else s.awaitSync)
        response := some (.read .okay w) } ∧
      (w.getLsbD 0 = true ↔ s.seq ≠ .idle) ∧ w.getLsbD 1 = s.status.done ∧ w.getLsbD 2 = s.status.err ∧
      w.getLsbD 3 = s.status.trunc ∧ w.getLsbD 4 = s.status.range ∧
      (w.getLsbD 5 = true ↔ s.status.curBank = .bank1) ∧ w.getLsbD 6 = s.status.lost ∧ w.getLsbD 7 = false ∧
      w.extractLsb' 8 8 = s.status.errCode ∧ w.extractLsb' 16 16 = 0

/-- R37: a write of STATUS clears DONE where bit 1 is set and LOST where bit 6 is, in every state, and nothing else. -/
def Obligations.StatusWriteClearsDoneAndLost : Prop :=
  ∀ (s : State) (v : Word) (rest : List Turn), s.params.wf = true → s.noHostFault →
    s.pending = .host (.write .four 0x00000008 v) :: rest →
    step s = .next { s with
      pending := rest
      response := some (.write .okay)
      status := { s.status with
        done := (if v.getLsbD 1 then false else s.status.done)
        lost := (if v.getLsbD 6 then false else s.status.lost) } }

/-- R38: irq is DONE and IRQ_EN. It rises when, and only when, a command ends with IRQ_EN set or the host sets IRQ_EN with
DONE set; it falls when, and only when, the host clears DONE by a W1C write, clears IRQ_EN, starts a command by a CMD write, or
at reset. A write of CFG sets or clears IRQ_EN where R177 allows it: the engine IDLE and the host synchronised. The engine's turn
is also the one with none pending (log 2). -/
def Obligations.IrqMovesOnlyAsTheSpecSays : Prop :=
  (∀ s : State, s.irq = true ↔ s.status.done = true ∧ s.cfg.irqEn = true) ∧
  (∀ s t : State, s.noHostFault → step s = .next t → s.irq = false → t.irq = true →
    (s.seq ≠ .idle ∧ t.seq = .idle ∧ s.cfg.irqEn = true) ∨
      (s.status.done = true ∧ ∃ rest v, s.pending = .host (.write .four 0x0000000C v) :: rest ∧ v.getLsbD 0 = true)) ∧
  (∀ s t : State, s.noHostFault → step s = .next t → s.irq = true → t.irq = false →
    (∃ rest v, s.pending = .host (.write .four 0x00000008 v) :: rest ∧ v.getLsbD 1 = true) ∨
      (∃ rest v, s.pending = .host (.write .four 0x0000000C v) :: rest ∧ v.getLsbD 0 = false) ∨
      (s.seq = .idle ∧ ∃ rest w, s.pending = .host (.write .four 0x00000004 w) :: rest ∧ t.seq = .busy w) ∨
      ∃ rest, s.pending = .reset :: rest) ∧
  (∀ s : State, s.params.wf = true → s.noHostFault → s.cfg.irqEn = true → s.seq ≠ .idle →
    (s.pending = [] ∨ ∃ rest, s.pending = .engine :: rest) → ∃ t, step s = .next t ∧ t.irq = true) ∧
  (∀ (s : State) (v : Word) (rest : List Turn), s.params.wf = true → s.noHostFault → s.seq = .idle → s.awaitSync = false →
    s.pending = .host (.write .four 0x0000000C v) :: rest →
    ∃ t, step s = .next t ∧ (s.status.done = true → v.getLsbD 0 = true → t.irq = true) ∧
      (v.getLsbD 0 = false → t.irq = false)) ∧
  (∀ (s : State) (v : Word) (rest : List Turn), s.params.wf = true → s.noHostFault →
    ((s.pending = .host (.write .four 0x00000008 v) :: rest ∧ v.getLsbD 1 = true) ∨
      (s.seq = .idle ∧ s.pending = .host (.write .four 0x00000004 v) :: rest) ∨ s.pending = .reset :: rest) →
    ∃ t, step s = .next t ∧ t.irq = false)

/-- R22 to R33: when the engine is IDLE and the host synchronised, a read of a register returns what it holds and changes
nothing. (STATUS has its own statement.) -/
def Obligations.RegisterReadsReturnTheRegisters : Prop :=
  ∀ (s : State) (rest : List Turn), s.params.wf = true → s.noHostFault → s.seq = .idle → s.awaitSync = false →
    ∀ p ∈ ([(0x000, 0x50420001), (0x004, 0),
        (0x00C, BitVec.ofNat 32 (s.cfg.irqEn.toNat + 2 * s.cfg.sharpClamp.toNat)), (0x010, s.param),
        (0x014, s.inLen), (0x018, s.gridW), (0x01C, s.gridH), (0x020, s.rowBytes), (0x024, s.rowsDone), (0x028, BitVec.ofNat 32 s.params.inCap),
        (0x02C, BitVec.ofNat 32 s.params.gridCap), (0x040, s.fileHdr.signature), (0x044, s.fileHdr.fileSize),
        (0x048, s.fileHdr.reserved), (0x04C, s.fileHdr.dataOffset), (0x050, s.infoHdr.headerSize),
        (0x054, s.infoHdr.width), (0x058, s.infoHdr.height), (0x05C, s.infoHdr.planes), (0x060, s.infoHdr.bpp),
        (0x064, s.infoHdr.compression), (0x068, s.infoHdr.imageSize), (0x06C, s.infoHdr.xppm),
        (0x070, s.infoHdr.yppm), (0x074, s.infoHdr.colorsUsed), (0x078, s.infoHdr.important)] : List (Word × Word)),
      s.pending = .host (.read .four p.1) :: rest →
      step s = .next { s with pending := rest, response := some (.read .okay p.2) }

/-- R25 to R29: when the engine is IDLE and the host synchronised, writes of CFG, PARAM, IN_LEN (clamped to IN_CAP), GRID_W
and GRID_H store and change nothing else; CFG then reads as its two fields with the reserved bits 0. -/
def Obligations.RegisterWritesStore : Prop :=
  ∀ (s : State) (v : Word) (rest : List Turn), s.params.wf = true → s.noHostFault → s.seq = .idle →
    s.awaitSync = false →
    (s.pending = .host (.write .four 0x0000000C v) :: rest →
      step s = .next { s with
        pending := rest, response := some (.write .okay), cfg := ⟨v.getLsbD 0, v.getLsbD 1⟩ } ∧
      cfgWord ⟨v.getLsbD 0, v.getLsbD 1⟩ = v &&& 3) ∧
    (s.pending = .host (.write .four 0x00000010 v) :: rest →
      step s = .next { s with pending := rest, response := some (.write .okay), param := v }) ∧
    (s.pending = .host (.write .four 0x00000014 v) :: rest →
      ∃ n : Word, n.toNat = min v.toNat s.params.inCap ∧
        step s = .next { s with pending := rest, response := some (.write .okay), inLen := n }) ∧
    (s.pending = .host (.write .four 0x00000018 v) :: rest →
      step s = .next { s with pending := rest, response := some (.write .okay), gridW := v }) ∧
    (s.pending = .host (.write .four 0x0000001C v) :: rest →
      step s = .next { s with pending := rest, response := some (.write .okay), gridH := v })

/-- R34, R35, R54: when the engine is IDLE and the host synchronised, an aligned 32-bit write below 0x800 that names none of
CMD, STATUS, CFG, PARAM, IN_LEN, GRID_W, GRID_H is ignored with OKAY, and a read of a reserved offset returns 0. -/
def Obligations.ReadOnlyAndReservedIgnoreWrites : Prop :=
  ∀ (s : State) (a : Word) (rest : List Turn), s.params.wf = true → s.noHostFault → s.seq = .idle →
    s.awaitSync = false → a.toNat % 4 = 0 →
    (∀ v, s.pending = .host (.write .four a v) :: rest → a.toNat < 0x800 → (a.toNat < 0x004 ∨ 0x01C < a.toNat) →
      step s = .next { s with pending := rest, response := some (.write .okay) }) ∧
    (s.pending = .host (.read .four a) :: rest →
      ((0x02C < a.toNat ∧ a.toNat < 0x040) ∨ (0x078 < a.toNat ∧ a.toNat < 0x400)) →
      step s = .next { s with pending := rest, response := some (.read .okay 0) })

/-- R51, R56, R60, R177: in every state, a misaligned access, an access to an unmapped address, or one of size 1 or 2 outside
the input window's slot ends in ERROR: no effect, and a read returns 0. -/
def Obligations.BusErrorsHaveNoEffect : Prop :=
  ∀ (s : State) (z : Size) (a v : Word) (rest : List Turn), s.params.wf = true → s.noHostFault →
    (a.toNat % z.bytes ≠ 0 ∨ (0x800 ≤ a.toNat ∧ a.toNat < 0x10000000) ∨ 0x40000000 ≤ a.toNat ∨
      (z ≠ .four ∧ (a.toNat < 0x10000000 ∨ 0x20000000 ≤ a.toNat))) →
    (s.pending = .host (.read z a) :: rest →
      step s = .next { s with pending := rest, response := some (.read .error 0) }) ∧
    (s.pending = .host (.write z a v) :: rest →
      step s = .next { s with pending := rest, response := some (.write .error) })

/-- R52, R59: when the engine is IDLE and the host synchronised, a write to IN stores its bytes, the byte at the address from
data bits 7:0, and changes no other byte; a read gathers the bytes in the same order. -/
def Obligations.InputWindowMovesBytesLittleEndian : Prop :=
  ∀ (s : State) (z : Size) (off : Nat) (rest : List Turn), s.params.wf = true → s.noHostFault → s.seq = .idle →
    s.awaitSync = false → off % z.bytes = 0 → off + z.bytes ≤ s.params.inCap →
    (∀ v, s.pending = .host (.write z (BitVec.ofNat 32 (0x10000000 + off)) v) :: rest →
      ∃ t, step s = .next t ∧
        t = { s with pending := rest, response := some (.write .okay), inMem := t.inMem } ∧
        ∀ a, t.inByte a =
          if off ≤ a ∧ a < off + z.bytes then v.extractLsb' (8 * (a - off)) 8 else s.inByte a) ∧
    (s.pending = .host (.read z (BitVec.ofNat 32 (0x10000000 + off))) :: rest →
      ∃ d : Word, step s = .next { s with pending := rest, response := some (.read .okay d) } ∧
        (∀ k < z.bytes, d.extractLsb' (8 * k) 8 = s.inByte (off + k)) ∧ d.toNat < 2 ^ (8 * z.bytes))

/-- R53: when the engine is IDLE and the host synchronised, a 32-bit write to a bank's window stores one pixel and ignores
bits 31:24, a read returns it with bits 31:24 zero, no other pixel changes, and sizes 1 and 2 end in ERROR. -/
def Obligations.PixelWindowsHoldOnePixelAWord : Prop :=
  ∀ (s : State) (b : Bank) (i : Nat) (rest : List Turn), s.params.wf = true → s.noHostFault → s.seq = .idle →
    s.awaitSync = false → i < s.params.gridCap →
    let a : Word := BitVec.ofNat 32 ((if b = .bank0 then 0x20000000 else 0x30000000) + 4 * i)
    (∀ v : Word, s.pending = .host (.write .four a v) :: rest →
      ∃ t, step s = .next t ∧
        t = { s with pending := rest, response := some (.write .okay), pix0 := t.pix0, pix1 := t.pix1 } ∧
        t.pixel b i = ⟨v.extractLsb' 16 8, v.extractLsb' 8 8, v.extractLsb' 0 8⟩ ∧
        ∀ c j, (c ≠ b ∨ j ≠ i) → t.pixel c j = s.pixel c j) ∧
    (s.pending = .host (.read .four a) :: rest →
      ∃ d : Word, step s = .next { s with pending := rest, response := some (.read .okay d) } ∧
        d.extractLsb' 24 8 = 0 ∧ d.extractLsb' 16 8 = (s.pixel b i).r ∧ d.extractLsb' 8 8 = (s.pixel b i).g ∧
        d.extractLsb' 0 8 = (s.pixel b i).b) ∧
    (∀ z ≠ Size.four, s.pending = .host (.read z a) :: rest →
      step s = .next { s with pending := rest, response := some (.read .error 0) }) ∧
    (∀ z ≠ Size.four, ∀ v, s.pending = .host (.write z a v) :: rest →
      step s = .next { s with pending := rest, response := some (.write .error) })

/-- R54: when the engine is IDLE and the host synchronised, a 32-bit read of the palette window returns 8'h00, R, G, B of its
entry, a write is ignored with OKAY, and sizes 1 and 2 end in ERROR. -/
def Obligations.PaletteWindowIsReadOnly : Prop :=
  ∀ (s : State) (i : Nat) (rest : List Turn), s.params.wf = true → s.noHostFault → s.seq = .idle →
    s.awaitSync = false → i < 256 →
    let a : Word := BitVec.ofNat 32 (0x400 + 4 * i)
    (s.pending = .host (.read .four a) :: rest →
      ∃ d : Word, step s = .next { s with pending := rest, response := some (.read .okay d) } ∧
        d.extractLsb' 24 8 = 0 ∧ d.extractLsb' 16 8 = (s.palEntry i).r ∧ d.extractLsb' 8 8 = (s.palEntry i).g ∧
        d.extractLsb' 0 8 = (s.palEntry i).b) ∧
    (∀ v, s.pending = .host (.write .four a v) :: rest →
      step s = .next { s with pending := rest, response := some (.write .okay) }) ∧
    (∀ z ≠ Size.four, s.pending = .host (.read z a) :: rest →
      step s = .next { s with pending := rest, response := some (.read .error 0) }) ∧
    (∀ z ≠ Size.four, ∀ v, s.pending = .host (.write z a v) :: rest →
      step s = .next { s with pending := rest, response := some (.write .error) })

/-- R56: when the engine is IDLE and the host synchronised, an access of legal size and alignment inside a slot but beyond
its capacity completes OKAY: a read returns 0 and a write is ignored. -/
def Obligations.BeyondCapacityReadsZeroIgnoresWrites : Prop :=
  ∀ (s : State) (z : Size) (a : Word) (rest : List Turn), s.params.wf = true → s.noHostFault → s.seq = .idle →
    s.awaitSync = false → a.toNat % z.bytes = 0 →
    ((0x10000000 + s.params.inCap ≤ a.toNat ∧ a.toNat < 0x20000000) ∨
      (z = .four ∧ 0x20000000 + 4 * s.params.gridCap ≤ a.toNat ∧ a.toNat < 0x30000000) ∨
      (z = .four ∧ 0x30000000 + 4 * s.params.gridCap ≤ a.toNat ∧ a.toNat < 0x40000000)) →
    (s.pending = .host (.read z a) :: rest →
      step s = .next { s with pending := rest, response := some (.read .okay 0) }) ∧
    (∀ v, s.pending = .host (.write z a v) :: rest →
      step s = .next { s with pending := rest, response := some (.write .okay) })

/-- R62: a read changes no register, no memory and no flag: only the host's own view (its turn, the response, the
synchronisation mark, the count of free values drawn). -/
def Obligations.ReadsHaveNoSideEffect : Prop :=
  ∀ (s : State) (z : Size) (a : Word) (rest : List Turn), s.params.wf = true → s.noHostFault →
    s.pending = .host (.read z a) :: rest →
    ∃ t, step s = .next t ∧
      t = { s with pending := rest, response := t.response, awaitSync := t.awaitSync, draws := t.draws }

/-- R177, R178: while the host must treat the engine as BUSY (R176), a write that is no bus error and goes neither to CMD nor
to STATUS sets the sticky mark, whatever it aims at. -/
def Obligations.WriteWhileBusyIsAHostFault : Prop :=
  ∀ (s : State) (z : Size) (a v : Word) (rest : List Turn), s.params.wf = true → s.noHostFault →
    (s.seq ≠ .idle ∨ s.awaitSync = true) → s.pending = .host (.write z a v) :: rest →
    a.toNat % z.bytes = 0 →
    ((z = .four ∧ a.toNat < 0x800 ∧ a ≠ 0x00000004 ∧ a ≠ 0x00000008) ∨ (0x10000000 ≤ a.toNat ∧ a.toNat < 0x20000000) ∨
      (z = .four ∧ 0x20000000 ≤ a.toNat ∧ a.toNat < 0x40000000)) →
    ∃ t, step s = .next t ∧ t.hostFault = true

/-- R178: no step clears the host-fault mark, and only a host write other than to CMD and STATUS, made while the host must
treat the engine as BUSY, sets it. (This one is about the mark itself, so it takes no premise on it.) -/
def Obligations.HostFaultIsStickyAndHasOneCause : Prop :=
  (∀ s t : State, step s = .next t → s.hostFault = true → t.hostFault = true) ∧
  (∀ s t : State, step s = .next t → s.hostFault = false → t.hostFault = true →
    (s.seq ≠ .idle ∨ s.awaitSync = true) ∧
      ∃ rest z a v, s.pending = .host (.write z a v) :: rest ∧ a ≠ 0x00000004 ∧ a ≠ 0x00000008)

/-- R177: while the host must treat the engine as BUSY, a read of ID, IN_CAP or GRID_CAP returns the constant, and any other
read that is no bus error and not of STATUS completes OKAY with some value and leaves the engine as it is. That this
holds of CMD, of reserved offsets and beyond a capacity too, and that the answer is OKAY, is deduced (log 7). -/
def Obligations.ReadsWhileBusyComplete : Prop :=
  ∀ (s : State) (z : Size) (a : Word) (rest : List Turn), s.params.wf = true → s.noHostFault →
    (s.seq ≠ .idle ∨ s.awaitSync = true) → s.pending = .host (.read z a) :: rest → a.toNat % z.bytes = 0 →
    (z = .four → a = 0x00000000 → step s = .next { s with pending := rest, response := some (.read .okay 0x50420001) }) ∧
    (z = .four → a = 0x00000028 →
      step s = .next { s with pending := rest, response := some (.read .okay (BitVec.ofNat 32 s.params.inCap)) }) ∧
    (z = .four → a = 0x0000002C →
      step s = .next { s with pending := rest, response := some (.read .okay (BitVec.ofNat 32 s.params.gridCap)) }) ∧
    ((z = .four ∧ a.toNat < 0x800 ∧ a ≠ 0x00000000 ∧ a ≠ 0x00000008 ∧ a ≠ 0x00000028 ∧ a ≠ 0x0000002C) ∨
        (0x10000000 ≤ a.toNat ∧ a.toNat < 0x20000000) ∨ (z = .four ∧ 0x20000000 ≤ a.toNat ∧ a.toNat < 0x40000000) →
      ∃ d : Word, d.toNat < 2 ^ (8 * z.bytes) ∧
        step s = .next { s with pending := rest, draws := s.draws + 1, response := some (.read .okay d) })

/-- R63, R176: the host becomes synchronised only by reading STATUS with BUSY = 0, or by reset (log 9), and stops being so
only by a CMD write that starts a command. -/
def Obligations.OnlyTheStatusReadSynchronises : Prop :=
  ∀ s t : State, s.noHostFault → step s = .next t →
    (s.awaitSync = true → t.awaitSync = false →
      (s.seq = .idle ∧ ∃ rest, s.pending = .host (.read .four 0x00000008) :: rest) ∨ ∃ rest, s.pending = .reset :: rest) ∧
    (s.awaitSync = false → t.awaitSync = true →
      s.seq = .idle ∧ ∃ rest w, s.pending = .host (.write .four 0x00000004 w) :: rest)

/-! ### Reset and the whole machine -/

/-- R43, R44, R170, R172: reset, in any state, gives every register and flag its value and leaves no written byte, entry or
pixel in any memory; each then reads as the free value of the new reset, counted by the model, and of no earlier one (log 5). -/
def Obligations.ResetGivesEveryRegisterItsValue : Prop :=
  ∀ (s : State) (rest : List Turn), s.params.wf = true → s.noHostFault → s.pending = .reset :: rest →
    ∃ t, step s = .next t ∧ t.seq = .idle ∧ statusWord t.seq t.status = 0 ∧ cfgWord t.cfg = 0 ∧ t.param = 0 ∧
      t.inLen = 0 ∧ t.gridW = 0 ∧ t.gridH = 0 ∧ t.rowBytes = 0 ∧ t.rowsDone = 0 ∧ t.fileHdr = ⟨0, 0, 0, 0⟩ ∧
      t.infoHdr = ⟨0, 0, 0, 0, 0, 0, 0, 0, 0, 0, 0⟩ ∧ t.irq = false ∧ t.params = s.params ∧
      (∀ a, Memory.get? t.inMem a = none ∧ Memory.get? t.pal a = none ∧ Memory.get? t.pix0 a = none ∧
        Memory.get? t.pix1 a = none) ∧
      t.resets = s.resets + 1 ∧
      ∀ a, t.inByte a = Config.unwrittenByte (s.resets + 1) a ∧ t.palEntry a = Config.unwrittenEntry (s.resets + 1) a ∧
        ∀ b, t.pixel b a = Config.unwrittenPixel (s.resets + 1) b a

/-- R44, R52: only a host write or a reset changes a byte of IN. -/
def Obligations.OnlyTheHostWritesTheInputWindow : Prop :=
  ∀ (s t : State) (a : Nat), s.noHostFault → step s = .next t → t.inByte a ≠ s.inByte a →
    (∃ rest z addr v, s.pending = .host (.write z addr v) :: rest ∧ 0x10000000 ≤ addr.toNat ∧ addr.toNat < 0x20000000) ∨
      ∃ rest, s.pending = .reset :: rest

/-- R9: an illegal configuration is refused. With a legal one no step stops: a host access completes (R51), the engine's turn
ends its command, with or without an error, and the engine goes on (R92, R153, R167), a reset is taken in any state (R170). That
the machine also goes on by and after a host fault is the model's choice (log 8). -/
def Obligations.StepStopsOnlyOnABadConfiguration : Prop :=
  ∀ s : State,
    (((1 ≤ s.params.gridCap ∧ s.params.gridCap ≤ 2 ^ 26) ∧ (54 ≤ s.params.inCap ∧ s.params.inCap ≤ 2 ^ 28)) →
      ∃ t, step s = .next t ∧ t.params = s.params) ∧
    (¬ ((1 ≤ s.params.gridCap ∧ s.params.gridCap ≤ 2 ^ 26) ∧ (54 ≤ s.params.inCap ∧ s.params.inCap ≤ 2 ^ 28)) →
      step s = .refused .badConfiguration)

/-- R8, R92, R172, R184: within as many steps as turns are pending, and one, a BUSY engine is IDLE: its command has ended, with
DONE set, or a reset among the turns taken abandoned it. That with none pending the turn is the engine's is the model's choice
(log 2), and so is that the run goes on past a host write R177 forbids (log 8): the premise is on the first state alone. -/
def Obligations.BusyEngineEndsItsCommand : Prop :=
  ∀ (s : State) (w : Word), s.params.wf = true → s.noHostFault → s.seq = .busy w →
    ∃ k ≤ s.pending.length + 1, ∃ t : State, Sys2Proof.core.run k s = .next t ∧ t.seq = .idle ∧
      (Turn.reset ∉ s.pending.take k → t.status.done = true)

/-- The invariant holds after reset. -/
def Obligations.ResetMeetsTheInvariant : Prop := State.reset.Inv

/-- Every step from a state that meets the invariant, with no host fault before it, gives a state that meets it: legal configuration, canonical memories
inside their windows, IN_LEN inside the window, the error code consistent, the flags of a running command clear, ROW_BYTES a
multiple of 4. -/
def Obligations.StepKeepsTheInvariant : Prop :=
  ∀ s t : State, s.Inv → s.noHostFault → step s = .next t → t.Inv
end

