-- ==== Sys2Proof/Laws/Memory.lean ====
section
/-! SUPPORT. What the memory operations do: read after write, and that every one keeps the canonical form and its bound. -/

namespace Sys2Proof.Machine

variable {β : Type}

@[simp] theorem Memory.get?_nil (a : Nat) : Memory.get? ([] : List (Nat × β)) a = none := rfl

/-- A read after a write to the same address gives the value written. -/
@[simp] theorem Memory.get?_set_self (m : List (Nat × β)) (a : Nat) (v : β) :
    Memory.get? (Memory.set m a v) a = some v := by
  induction m with
  | nil => simp [Memory.set, Memory.get?]
  | cons c m ih =>
    simp only [Memory.set]
    split
    · simp [Memory.get?]
    · split
      · simp [Memory.get?]
      · simp_all [Memory.get?, eq_comm]

/-- A write leaves every other address alone. -/
theorem Memory.get?_set_ne (m : List (Nat × β)) {a b : Nat} (v : β) (h : b ≠ a) :
    Memory.get? (Memory.set m a v) b = Memory.get? m b := by
  induction m with
  | nil => simp [Memory.set, Memory.get?, h.symm]
  | cons c m ih =>
    simp only [Memory.set]
    split
    · simp [Memory.get?, h.symm]
    · split
      · rename_i h1
        simp [Memory.get?, h.symm, ← h1]
      · simp [Memory.get?, ih]

theorem Memory.get?_set (m : List (Nat × β)) (a b : Nat) (v : β) :
    Memory.get? (Memory.set m a v) b = if b = a then some v else Memory.get? m b := by
  split
  · next h => rw [h, Memory.get?_set_self]
  · next h => exact Memory.get?_set_ne m v h

/-- What every address holds after a fill. -/
theorem Memory.get?_fill (m : List (Nat × β)) (base : Nat) (f : Nat → β) (n a : Nat) :
    Memory.get? (Memory.fill m base f n) a =
      if base ≤ a ∧ a < base + n then some (f (a - base)) else Memory.get? m a := by
  induction n with
  | zero => simp [Memory.fill]
  | succ n ih =>
    rw [Memory.fill, Memory.get?_set, ih]
    by_cases h1 : a = base + n
    · subst h1; simp
    · by_cases h2 : base ≤ a ∧ a < base + n
      · rw [if_neg h1, if_pos h2, if_pos (by omega)]
      · rw [if_neg h1, if_neg h2, if_neg (by omega)]

/-- What every address holds after whole rows are filled. -/
theorem Memory.get?_fillRows (m : List (Nat × β)) (w r : Nat) (f : Nat → Nat → β) (k a : Nat) (hw : 0 < w) :
    Memory.get? (Memory.fillRows m w r f k) a =
      if r * w ≤ a ∧ a < (r + k) * w then some (f (a / w) (a % w)) else Memory.get? m a := by
  induction k with
  | zero => simp [Memory.fillRows]
  | succ k ih =>
    have hs : (r + (k + 1)) * w = (r + k) * w + w := by ring
    have hle : r * w ≤ (r + k) * w := Nat.mul_le_mul_right w (Nat.le_add_right r k)
    rw [Memory.fillRows, Memory.get?_fill, ih, hs]
    by_cases h1 : (r + k) * w ≤ a ∧ a < (r + k) * w + w
    · rw [if_pos h1, if_pos (by omega)]
      have hd : a / w = r + k := by
        rw [Nat.div_eq_iff hw]; constructor <;> omega
      have hm : a - (r + k) * w = a % w := by
        have := Nat.div_add_mod a w
        rw [hd, Nat.mul_comm] at this
        omega
      rw [hd, hm]
    · rw [if_neg h1]
      by_cases h2 : r * w ≤ a ∧ a < (r + k) * w
      · rw [if_pos h2, if_pos (by omega)]
      · rw [if_neg h2, if_neg (by omega)]

/-- Row-major form: the cell of row y and column x after whole rows are filled. -/
theorem Memory.get?_fillRows_cell (m : List (Nat × β)) (w r : Nat) (f : Nat → Nat → β) (k : Nat) {x y : Nat}
    (hx : x < w) :
    Memory.get? (Memory.fillRows m w r f k) (y * w + x) =
      if r ≤ y ∧ y < r + k then some (f y x) else Memory.get? m (y * w + x) := by
  have hw : 0 < w := by omega
  rw [Memory.get?_fillRows m w r f k _ hw]
  have hd : (y * w + x) / w = y := by rw [Nat.div_eq_iff hw]; constructor <;> omega
  have hm : (y * w + x) % w = x := by
    rw [Nat.mul_comm, Nat.mul_add_mod, Nat.mod_eq_of_lt hx]
  rw [hd, hm]
  have e : (r * w ≤ y * w + x ∧ y * w + x < (r + k) * w) ↔ (r ≤ y ∧ y < r + k) := by
    constructor
    · rintro ⟨h1, h2⟩
      constructor
      · by_contra h
        have : (y + 1) * w ≤ r * w := Nat.mul_le_mul_right w (by omega)
        rw [Nat.add_mul] at this
        omega
      · by_contra h
        have : (r + k) * w ≤ y * w := Nat.mul_le_mul_right w (by omega)
        omega
    · rintro ⟨h1, h2⟩
      constructor
      · have : r * w ≤ y * w := Nat.mul_le_mul_right w h1
        omega
      · have : (y + 1) * w ≤ (r + k) * w := Nat.mul_le_mul_right w (by omega)
        rw [Nat.add_mul] at this
        omega
  simp only [e]

/-! ### The canonical form and the bound -/

theorem Memory.mem_set {m : List (Nat × β)} {a : Nat} {v : β} {c : Nat × β} (h : c ∈ Memory.set m a v) :
    c = (a, v) ∨ c ∈ m := by
  induction m with
  | nil => simpa [Memory.set] using h
  | cons d m ih =>
    simp only [Memory.set] at h
    split at h
    · simpa using h
    · split at h
      · rcases List.mem_cons.mp h with h | h
        · exact .inl h
        · exact .inr (List.mem_cons_of_mem _ h)
      · rcases List.mem_cons.mp h with h | h
        · exact .inr (by simp [h])
        · rcases ih h with h | h
          · exact .inl h
          · exact .inr (List.mem_cons_of_mem _ h)

theorem Memory.wf_nil : Memory.wf ([] : List (Nat × β)) := List.Pairwise.nil

/-- A write keeps the canonical form. -/
theorem Memory.wf_set {m : List (Nat × β)} (h : Memory.wf m) (a : Nat) (v : β) : Memory.wf (Memory.set m a v) := by
  induction m with
  | nil => simp [Memory.set, Memory.wf]
  | cons c m ih =>
    have hc : (∀ d ∈ m, c.1 < d.1) ∧ Memory.wf m := by simpa [Memory.wf, List.pairwise_cons] using h
    simp only [Memory.set]
    split
    · next hlt =>
      simp only [Memory.wf, List.map_cons, List.pairwise_cons, List.mem_cons, List.mem_map]
      refine ⟨?_, ?_, hc.2⟩
      · rintro k (rfl | ⟨d, hd, rfl⟩)
        · exact hlt
        · exact lt_trans hlt (hc.1 d hd)
      · rintro k ⟨d, hd, rfl⟩
        exact hc.1 d hd
    · split
      · next heq =>
        simp only [Memory.wf, List.map_cons, List.pairwise_cons, List.mem_map]
        refine ⟨?_, hc.2⟩
        rintro k ⟨d, hd, rfl⟩
        exact heq ▸ hc.1 d hd
      · next hlt hne =>
        simp only [Memory.wf, List.map_cons, List.pairwise_cons, List.mem_map]
        refine ⟨?_, ih hc.2⟩
        rintro k ⟨d, hd, rfl⟩
        rcases Memory.mem_set hd with rfl | hd
        · show c.1 < a
          omega
        · exact hc.1 d hd

theorem Memory.wf_fill {m : List (Nat × β)} (h : Memory.wf m) (base : Nat) (f : Nat → β) (n : Nat) :
    Memory.wf (Memory.fill m base f n) := by
  induction n with
  | zero => exact h
  | succ n ih => exact Memory.wf_set ih _ _

theorem Memory.wf_fillRows {m : List (Nat × β)} (h : Memory.wf m) (w r : Nat) (f : Nat → Nat → β) (k : Nat) :
    Memory.wf (Memory.fillRows m w r f k) := by
  induction k with
  | zero => exact h
  | succ k ih => exact Memory.wf_fill ih _ _ _

theorem Memory.below_nil (cap : Nat) : Memory.below ([] : List (Nat × β)) cap := by simp [Memory.below]

theorem Memory.below_set {m : List (Nat × β)} {cap : Nat} (h : Memory.below m cap) {a : Nat} (v : β) (ha : a < cap) :
    Memory.below (Memory.set m a v) cap := by
  intro c hc
  rcases Memory.mem_set hc with rfl | hc
  · exact ha
  · exact h c hc

theorem Memory.below_fill {m : List (Nat × β)} {cap : Nat} (h : Memory.below m cap) (base : Nat) (f : Nat → β) {n : Nat}
    (hn : base + n ≤ cap) : Memory.below (Memory.fill m base f n) cap := by
  induction n with
  | zero => exact h
  | succ n ih => exact Memory.below_set (ih (by omega)) _ (by omega)

theorem Memory.below_fillRows {m : List (Nat × β)} {cap : Nat} (h : Memory.below m cap) (w r : Nat)
    (f : Nat → Nat → β) {k : Nat} (hk : (r + k) * w ≤ cap) : Memory.below (Memory.fillRows m w r f k) cap := by
  induction k with
  | zero => exact h
  | succ k ih =>
    have e : (r + (k + 1)) * w = (r + k) * w + w := by ring
    exact Memory.below_fill (ih (by omega)) _ _ (by omega)

/-- What an address reads as is one of its entries. -/
theorem Memory.mem_of_get? {m : List (Nat × β)} {a : Nat} {v : β} (h : Memory.get? m a = some v) : (a, v) ∈ m := by
  induction m with
  | nil => cases h
  | cons c m ih =>
    rw [Memory.get?] at h
    split at h
    · next hc =>
      cases h
      subst hc
      exact List.mem_cons_self
    · exact List.mem_cons_of_mem _ (ih h)

/-- In canonical form an address lower than every entry's is unlisted. -/
theorem Memory.get?_eq_none {m : List (Nat × β)} {a : Nat} (h : ∀ c ∈ m, a < c.1) : Memory.get? m a = none := by
  induction m with
  | nil => rfl
  | cons c m ih =>
    have := h c (by simp)
    simp only [Memory.get?]
    rw [if_neg (by omega)]
    exact ih fun d hd => h d (by simp [hd])

/-- Canonical memories that read the same at every address are the same data. -/
theorem Memory.ext_get? {m n : List (Nat × β)} (hm : Memory.wf m) (hn : Memory.wf n)
    (h : ∀ a, Memory.get? m a = Memory.get? n a) : m = n := by
  induction m generalizing n with
  | nil =>
    cases n with
    | nil => rfl
    | cons d n => simpa [Memory.get?] using h d.1
  | cons c m ih =>
    have hc : (∀ d ∈ m, c.1 < d.1) ∧ Memory.wf m := by simpa [Memory.wf, List.pairwise_cons] using hm
    cases n with
    | nil => simpa [Memory.get?] using h c.1
    | cons d n =>
      have hd : (∀ e ∈ n, d.1 < e.1) ∧ Memory.wf n := by simpa [Memory.wf, List.pairwise_cons] using hn
      have key : c.1 = d.1 := by
        rcases lt_trichotomy c.1 d.1 with hlt | heq | hlt
        · have := h c.1
          rw [Memory.get?_eq_none (m := d :: n) (by
            intro e he
            rcases List.mem_cons.mp he with rfl | he
            · exact hlt
            · exact lt_trans hlt (hd.1 e he))] at this
          simp [Memory.get?] at this
        · exact heq
        · have := h d.1
          rw [Memory.get?_eq_none (m := c :: m) (by
            intro e he
            rcases List.mem_cons.mp he with rfl | he
            · exact hlt
            · exact lt_trans hlt (hc.1 e he))] at this
          simp [Memory.get?] at this
      have hv : c.2 = d.2 := by simpa [Memory.get?, key] using h c.1
      have hcd : c = d := Prod.ext key hv
      subst hcd
      congr 1
      refine ih hc.2 hd.2 fun a => ?_
      by_cases ha : c.1 = a
      · subst ha
        rw [Memory.get?_eq_none hc.1, Memory.get?_eq_none hd.1]
      · simpa [Memory.get?, ha] using h a

/-- After reset every memory is in canonical form: nothing is listed (R44, log 6). -/
theorem reset_memories_wf : Memory.wf State.reset.inMem ∧ Memory.wf State.reset.pal ∧ Memory.wf State.reset.pix0 ∧
    Memory.wf State.reset.pix1 := ⟨Memory.wf_nil, Memory.wf_nil, Memory.wf_nil, Memory.wf_nil⟩

end Sys2Proof.Machine
end

