-- ==== Sys2Proof/Laws/State.lean ====
section
/-! SUPPORT. The small lemmas of State: what each named update leaves in each field. -/

namespace Sys2Proof.Machine

/-! `finish` writes SEQ and STATUS.DONE only (R92, R152). -/

@[simp] theorem finish_params (s : State) : s.finish.params = s.params := rfl
@[simp] theorem finish_seq (s : State) : s.finish.seq = .idle := rfl
@[simp] theorem finish_status (s : State) : s.finish.status = s.status.ended := rfl
@[simp] theorem finish_cfg (s : State) : s.finish.cfg = s.cfg := rfl
@[simp] theorem finish_param (s : State) : s.finish.param = s.param := rfl
@[simp] theorem finish_inLen (s : State) : s.finish.inLen = s.inLen := rfl
@[simp] theorem finish_gridW (s : State) : s.finish.gridW = s.gridW := rfl
@[simp] theorem finish_gridH (s : State) : s.finish.gridH = s.gridH := rfl
@[simp] theorem finish_rowBytes (s : State) : s.finish.rowBytes = s.rowBytes := rfl
@[simp] theorem finish_rowsDone (s : State) : s.finish.rowsDone = s.rowsDone := rfl
@[simp] theorem finish_fileHdr (s : State) : s.finish.fileHdr = s.fileHdr := rfl
@[simp] theorem finish_infoHdr (s : State) : s.finish.infoHdr = s.infoHdr := rfl
@[simp] theorem finish_pal (s : State) : s.finish.pal = s.pal := rfl
@[simp] theorem finish_pix0 (s : State) : s.finish.pix0 = s.pix0 := rfl
@[simp] theorem finish_pix1 (s : State) : s.finish.pix1 = s.pix1 := rfl
@[simp] theorem finish_inMem (s : State) : s.finish.inMem = s.inMem := rfl
@[simp] theorem finish_awaitSync (s : State) : s.finish.awaitSync = s.awaitSync := rfl
@[simp] theorem finish_hostFault (s : State) : s.finish.hostFault = s.hostFault := rfl
@[simp] theorem finish_pending (s : State) : s.finish.pending = s.pending := rfl
@[simp] theorem finish_response (s : State) : s.finish.response = s.response := rfl
@[simp] theorem finish_resets (s : State) : s.finish.resets = s.resets := rfl
@[simp] theorem finish_draws (s : State) : s.finish.draws = s.draws := rfl

/-! `raise` writes SEQ and STATUS only (R153). -/

@[simp] theorem raise_params (s : State) (e : EngineError) : (s.raise e).params = s.params := rfl
@[simp] theorem raise_seq (s : State) (e : EngineError) : (s.raise e).seq = .idle := rfl
@[simp] theorem raise_status (s : State) (e : EngineError) : (s.raise e).status = (s.status.failed e).ended := rfl
@[simp] theorem raise_cfg (s : State) (e : EngineError) : (s.raise e).cfg = s.cfg := rfl
@[simp] theorem raise_param (s : State) (e : EngineError) : (s.raise e).param = s.param := rfl
@[simp] theorem raise_inLen (s : State) (e : EngineError) : (s.raise e).inLen = s.inLen := rfl
@[simp] theorem raise_gridW (s : State) (e : EngineError) : (s.raise e).gridW = s.gridW := rfl
@[simp] theorem raise_gridH (s : State) (e : EngineError) : (s.raise e).gridH = s.gridH := rfl
@[simp] theorem raise_rowBytes (s : State) (e : EngineError) : (s.raise e).rowBytes = s.rowBytes := rfl
@[simp] theorem raise_rowsDone (s : State) (e : EngineError) : (s.raise e).rowsDone = s.rowsDone := rfl
@[simp] theorem raise_fileHdr (s : State) (e : EngineError) : (s.raise e).fileHdr = s.fileHdr := rfl
@[simp] theorem raise_infoHdr (s : State) (e : EngineError) : (s.raise e).infoHdr = s.infoHdr := rfl
@[simp] theorem raise_pal (s : State) (e : EngineError) : (s.raise e).pal = s.pal := rfl
@[simp] theorem raise_pix0 (s : State) (e : EngineError) : (s.raise e).pix0 = s.pix0 := rfl
@[simp] theorem raise_pix1 (s : State) (e : EngineError) : (s.raise e).pix1 = s.pix1 := rfl
@[simp] theorem raise_inMem (s : State) (e : EngineError) : (s.raise e).inMem = s.inMem := rfl
@[simp] theorem raise_awaitSync (s : State) (e : EngineError) : (s.raise e).awaitSync = s.awaitSync := rfl
@[simp] theorem raise_hostFault (s : State) (e : EngineError) : (s.raise e).hostFault = s.hostFault := rfl
@[simp] theorem raise_pending (s : State) (e : EngineError) : (s.raise e).pending = s.pending := rfl
@[simp] theorem raise_response (s : State) (e : EngineError) : (s.raise e).response = s.response := rfl
@[simp] theorem raise_resets (s : State) (e : EngineError) : (s.raise e).resets = s.resets := rfl
@[simp] theorem raise_draws (s : State) (e : EngineError) : (s.raise e).draws = s.draws := rfl

/-! Issue writes SEQ, STATUS and the synchronisation mark only (R90, R91). -/

@[simp] theorem issue_params (s : State) (w : Word) : (s.issue w).params = s.params := rfl
@[simp] theorem issue_seq (s : State) (w : Word) : (s.issue w).seq = .busy w := rfl
@[simp] theorem issue_status (s : State) (w : Word) : (s.issue w).status = s.status.start := rfl
@[simp] theorem issue_cfg (s : State) (w : Word) : (s.issue w).cfg = s.cfg := rfl
@[simp] theorem issue_param (s : State) (w : Word) : (s.issue w).param = s.param := rfl
@[simp] theorem issue_inLen (s : State) (w : Word) : (s.issue w).inLen = s.inLen := rfl
@[simp] theorem issue_gridW (s : State) (w : Word) : (s.issue w).gridW = s.gridW := rfl
@[simp] theorem issue_gridH (s : State) (w : Word) : (s.issue w).gridH = s.gridH := rfl
@[simp] theorem issue_rowBytes (s : State) (w : Word) : (s.issue w).rowBytes = s.rowBytes := rfl
@[simp] theorem issue_rowsDone (s : State) (w : Word) : (s.issue w).rowsDone = s.rowsDone := rfl
@[simp] theorem issue_fileHdr (s : State) (w : Word) : (s.issue w).fileHdr = s.fileHdr := rfl
@[simp] theorem issue_infoHdr (s : State) (w : Word) : (s.issue w).infoHdr = s.infoHdr := rfl
@[simp] theorem issue_pal (s : State) (w : Word) : (s.issue w).pal = s.pal := rfl
@[simp] theorem issue_pix0 (s : State) (w : Word) : (s.issue w).pix0 = s.pix0 := rfl
@[simp] theorem issue_pix1 (s : State) (w : Word) : (s.issue w).pix1 = s.pix1 := rfl
@[simp] theorem issue_inMem (s : State) (w : Word) : (s.issue w).inMem = s.inMem := rfl
@[simp] theorem issue_awaitSync (s : State) (w : Word) : (s.issue w).awaitSync = true := rfl
@[simp] theorem issue_hostFault (s : State) (w : Word) : (s.issue w).hostFault = s.hostFault := rfl
@[simp] theorem issue_pending (s : State) (w : Word) : (s.issue w).pending = s.pending := rfl
@[simp] theorem issue_response (s : State) (w : Word) : (s.issue w).response = s.response := rfl
@[simp] theorem issue_resets (s : State) (w : Word) : (s.issue w).resets = s.resets := rfl
@[simp] theorem issue_draws (s : State) (w : Word) : (s.issue w).draws = s.draws := rfl

/-! The file-header shadows are written and nothing else (R30). -/

@[simp] theorem setFileHdr_params (s : State) (h : FileHeader) : (s.setFileHdr h).params = s.params := rfl
@[simp] theorem setFileHdr_seq (s : State) (h : FileHeader) : (s.setFileHdr h).seq = s.seq := rfl
@[simp] theorem setFileHdr_status (s : State) (h : FileHeader) : (s.setFileHdr h).status = s.status := rfl
@[simp] theorem setFileHdr_cfg (s : State) (h : FileHeader) : (s.setFileHdr h).cfg = s.cfg := rfl
@[simp] theorem setFileHdr_param (s : State) (h : FileHeader) : (s.setFileHdr h).param = s.param := rfl
@[simp] theorem setFileHdr_inLen (s : State) (h : FileHeader) : (s.setFileHdr h).inLen = s.inLen := rfl
@[simp] theorem setFileHdr_gridW (s : State) (h : FileHeader) : (s.setFileHdr h).gridW = s.gridW := rfl
@[simp] theorem setFileHdr_gridH (s : State) (h : FileHeader) : (s.setFileHdr h).gridH = s.gridH := rfl
@[simp] theorem setFileHdr_rowBytes (s : State) (h : FileHeader) : (s.setFileHdr h).rowBytes = s.rowBytes := rfl
@[simp] theorem setFileHdr_rowsDone (s : State) (h : FileHeader) : (s.setFileHdr h).rowsDone = s.rowsDone := rfl
@[simp] theorem setFileHdr_fileHdr (s : State) (h : FileHeader) : (s.setFileHdr h).fileHdr = h := rfl
@[simp] theorem setFileHdr_infoHdr (s : State) (h : FileHeader) : (s.setFileHdr h).infoHdr = s.infoHdr := rfl
@[simp] theorem setFileHdr_pal (s : State) (h : FileHeader) : (s.setFileHdr h).pal = s.pal := rfl
@[simp] theorem setFileHdr_pix0 (s : State) (h : FileHeader) : (s.setFileHdr h).pix0 = s.pix0 := rfl
@[simp] theorem setFileHdr_pix1 (s : State) (h : FileHeader) : (s.setFileHdr h).pix1 = s.pix1 := rfl
@[simp] theorem setFileHdr_inMem (s : State) (h : FileHeader) : (s.setFileHdr h).inMem = s.inMem := rfl
@[simp] theorem setFileHdr_awaitSync (s : State) (h : FileHeader) : (s.setFileHdr h).awaitSync = s.awaitSync := rfl
@[simp] theorem setFileHdr_hostFault (s : State) (h : FileHeader) : (s.setFileHdr h).hostFault = s.hostFault := rfl
@[simp] theorem setFileHdr_pending (s : State) (h : FileHeader) : (s.setFileHdr h).pending = s.pending := rfl
@[simp] theorem setFileHdr_response (s : State) (h : FileHeader) : (s.setFileHdr h).response = s.response := rfl
@[simp] theorem setFileHdr_resets (s : State) (h : FileHeader) : (s.setFileHdr h).resets = s.resets := rfl
@[simp] theorem setFileHdr_draws (s : State) (h : FileHeader) : (s.setFileHdr h).draws = s.draws := rfl

/-! The info-header shadows are written and nothing else (R31). -/

@[simp] theorem setInfoHdr_params (s : State) (h : InfoHeader) : (s.setInfoHdr h).params = s.params := rfl
@[simp] theorem setInfoHdr_seq (s : State) (h : InfoHeader) : (s.setInfoHdr h).seq = s.seq := rfl
@[simp] theorem setInfoHdr_status (s : State) (h : InfoHeader) : (s.setInfoHdr h).status = s.status := rfl
@[simp] theorem setInfoHdr_cfg (s : State) (h : InfoHeader) : (s.setInfoHdr h).cfg = s.cfg := rfl
@[simp] theorem setInfoHdr_param (s : State) (h : InfoHeader) : (s.setInfoHdr h).param = s.param := rfl
@[simp] theorem setInfoHdr_inLen (s : State) (h : InfoHeader) : (s.setInfoHdr h).inLen = s.inLen := rfl
@[simp] theorem setInfoHdr_gridW (s : State) (h : InfoHeader) : (s.setInfoHdr h).gridW = s.gridW := rfl
@[simp] theorem setInfoHdr_gridH (s : State) (h : InfoHeader) : (s.setInfoHdr h).gridH = s.gridH := rfl
@[simp] theorem setInfoHdr_rowBytes (s : State) (h : InfoHeader) : (s.setInfoHdr h).rowBytes = s.rowBytes := rfl
@[simp] theorem setInfoHdr_rowsDone (s : State) (h : InfoHeader) : (s.setInfoHdr h).rowsDone = s.rowsDone := rfl
@[simp] theorem setInfoHdr_fileHdr (s : State) (h : InfoHeader) : (s.setInfoHdr h).fileHdr = s.fileHdr := rfl
@[simp] theorem setInfoHdr_infoHdr (s : State) (h : InfoHeader) : (s.setInfoHdr h).infoHdr = h := rfl
@[simp] theorem setInfoHdr_pal (s : State) (h : InfoHeader) : (s.setInfoHdr h).pal = s.pal := rfl
@[simp] theorem setInfoHdr_pix0 (s : State) (h : InfoHeader) : (s.setInfoHdr h).pix0 = s.pix0 := rfl
@[simp] theorem setInfoHdr_pix1 (s : State) (h : InfoHeader) : (s.setInfoHdr h).pix1 = s.pix1 := rfl
@[simp] theorem setInfoHdr_inMem (s : State) (h : InfoHeader) : (s.setInfoHdr h).inMem = s.inMem := rfl
@[simp] theorem setInfoHdr_awaitSync (s : State) (h : InfoHeader) : (s.setInfoHdr h).awaitSync = s.awaitSync := rfl
@[simp] theorem setInfoHdr_hostFault (s : State) (h : InfoHeader) : (s.setInfoHdr h).hostFault = s.hostFault := rfl
@[simp] theorem setInfoHdr_pending (s : State) (h : InfoHeader) : (s.setInfoHdr h).pending = s.pending := rfl
@[simp] theorem setInfoHdr_response (s : State) (h : InfoHeader) : (s.setInfoHdr h).response = s.response := rfl
@[simp] theorem setInfoHdr_resets (s : State) (h : InfoHeader) : (s.setInfoHdr h).resets = s.resets := rfl
@[simp] theorem setInfoHdr_draws (s : State) (h : InfoHeader) : (s.setInfoHdr h).draws = s.draws := rfl

/-! PAL is written and nothing else (R40). -/

@[simp] theorem setPal_params (s : State) (m : List (Nat × Pixel)) : (s.setPal m).params = s.params := rfl
@[simp] theorem setPal_seq (s : State) (m : List (Nat × Pixel)) : (s.setPal m).seq = s.seq := rfl
@[simp] theorem setPal_status (s : State) (m : List (Nat × Pixel)) : (s.setPal m).status = s.status := rfl
@[simp] theorem setPal_cfg (s : State) (m : List (Nat × Pixel)) : (s.setPal m).cfg = s.cfg := rfl
@[simp] theorem setPal_param (s : State) (m : List (Nat × Pixel)) : (s.setPal m).param = s.param := rfl
@[simp] theorem setPal_inLen (s : State) (m : List (Nat × Pixel)) : (s.setPal m).inLen = s.inLen := rfl
@[simp] theorem setPal_gridW (s : State) (m : List (Nat × Pixel)) : (s.setPal m).gridW = s.gridW := rfl
@[simp] theorem setPal_gridH (s : State) (m : List (Nat × Pixel)) : (s.setPal m).gridH = s.gridH := rfl
@[simp] theorem setPal_rowBytes (s : State) (m : List (Nat × Pixel)) : (s.setPal m).rowBytes = s.rowBytes := rfl
@[simp] theorem setPal_rowsDone (s : State) (m : List (Nat × Pixel)) : (s.setPal m).rowsDone = s.rowsDone := rfl
@[simp] theorem setPal_fileHdr (s : State) (m : List (Nat × Pixel)) : (s.setPal m).fileHdr = s.fileHdr := rfl
@[simp] theorem setPal_infoHdr (s : State) (m : List (Nat × Pixel)) : (s.setPal m).infoHdr = s.infoHdr := rfl
@[simp] theorem setPal_pal (s : State) (m : List (Nat × Pixel)) : (s.setPal m).pal = m := rfl
@[simp] theorem setPal_pix0 (s : State) (m : List (Nat × Pixel)) : (s.setPal m).pix0 = s.pix0 := rfl
@[simp] theorem setPal_pix1 (s : State) (m : List (Nat × Pixel)) : (s.setPal m).pix1 = s.pix1 := rfl
@[simp] theorem setPal_inMem (s : State) (m : List (Nat × Pixel)) : (s.setPal m).inMem = s.inMem := rfl
@[simp] theorem setPal_awaitSync (s : State) (m : List (Nat × Pixel)) : (s.setPal m).awaitSync = s.awaitSync := rfl
@[simp] theorem setPal_hostFault (s : State) (m : List (Nat × Pixel)) : (s.setPal m).hostFault = s.hostFault := rfl
@[simp] theorem setPal_pending (s : State) (m : List (Nat × Pixel)) : (s.setPal m).pending = s.pending := rfl
@[simp] theorem setPal_response (s : State) (m : List (Nat × Pixel)) : (s.setPal m).response = s.response := rfl
@[simp] theorem setPal_resets (s : State) (m : List (Nat × Pixel)) : (s.setPal m).resets = s.resets := rfl
@[simp] theorem setPal_draws (s : State) (m : List (Nat × Pixel)) : (s.setPal m).draws = s.draws := rfl

/-! ROW_BYTES is written and nothing else (R32). -/

@[simp] theorem setRowBytes_params (s : State) (v : Word) : (s.setRowBytes v).params = s.params := rfl
@[simp] theorem setRowBytes_seq (s : State) (v : Word) : (s.setRowBytes v).seq = s.seq := rfl
@[simp] theorem setRowBytes_status (s : State) (v : Word) : (s.setRowBytes v).status = s.status := rfl
@[simp] theorem setRowBytes_cfg (s : State) (v : Word) : (s.setRowBytes v).cfg = s.cfg := rfl
@[simp] theorem setRowBytes_param (s : State) (v : Word) : (s.setRowBytes v).param = s.param := rfl
@[simp] theorem setRowBytes_inLen (s : State) (v : Word) : (s.setRowBytes v).inLen = s.inLen := rfl
@[simp] theorem setRowBytes_gridW (s : State) (v : Word) : (s.setRowBytes v).gridW = s.gridW := rfl
@[simp] theorem setRowBytes_gridH (s : State) (v : Word) : (s.setRowBytes v).gridH = s.gridH := rfl
@[simp] theorem setRowBytes_rowBytes (s : State) (v : Word) : (s.setRowBytes v).rowBytes = v := rfl
@[simp] theorem setRowBytes_rowsDone (s : State) (v : Word) : (s.setRowBytes v).rowsDone = s.rowsDone := rfl
@[simp] theorem setRowBytes_fileHdr (s : State) (v : Word) : (s.setRowBytes v).fileHdr = s.fileHdr := rfl
@[simp] theorem setRowBytes_infoHdr (s : State) (v : Word) : (s.setRowBytes v).infoHdr = s.infoHdr := rfl
@[simp] theorem setRowBytes_pal (s : State) (v : Word) : (s.setRowBytes v).pal = s.pal := rfl
@[simp] theorem setRowBytes_pix0 (s : State) (v : Word) : (s.setRowBytes v).pix0 = s.pix0 := rfl
@[simp] theorem setRowBytes_pix1 (s : State) (v : Word) : (s.setRowBytes v).pix1 = s.pix1 := rfl
@[simp] theorem setRowBytes_inMem (s : State) (v : Word) : (s.setRowBytes v).inMem = s.inMem := rfl
@[simp] theorem setRowBytes_awaitSync (s : State) (v : Word) : (s.setRowBytes v).awaitSync = s.awaitSync := rfl
@[simp] theorem setRowBytes_hostFault (s : State) (v : Word) : (s.setRowBytes v).hostFault = s.hostFault := rfl
@[simp] theorem setRowBytes_pending (s : State) (v : Word) : (s.setRowBytes v).pending = s.pending := rfl
@[simp] theorem setRowBytes_response (s : State) (v : Word) : (s.setRowBytes v).response = s.response := rfl
@[simp] theorem setRowBytes_resets (s : State) (v : Word) : (s.setRowBytes v).resets = s.resets := rfl
@[simp] theorem setRowBytes_draws (s : State) (v : Word) : (s.setRowBytes v).draws = s.draws := rfl

/-! A response is recorded and nothing else. -/

@[simp] theorem respond_params (s : State) (r : Response) : (s.respond r).params = s.params := rfl
@[simp] theorem respond_seq (s : State) (r : Response) : (s.respond r).seq = s.seq := rfl
@[simp] theorem respond_status (s : State) (r : Response) : (s.respond r).status = s.status := rfl
@[simp] theorem respond_cfg (s : State) (r : Response) : (s.respond r).cfg = s.cfg := rfl
@[simp] theorem respond_param (s : State) (r : Response) : (s.respond r).param = s.param := rfl
@[simp] theorem respond_inLen (s : State) (r : Response) : (s.respond r).inLen = s.inLen := rfl
@[simp] theorem respond_gridW (s : State) (r : Response) : (s.respond r).gridW = s.gridW := rfl
@[simp] theorem respond_gridH (s : State) (r : Response) : (s.respond r).gridH = s.gridH := rfl
@[simp] theorem respond_rowBytes (s : State) (r : Response) : (s.respond r).rowBytes = s.rowBytes := rfl
@[simp] theorem respond_rowsDone (s : State) (r : Response) : (s.respond r).rowsDone = s.rowsDone := rfl
@[simp] theorem respond_fileHdr (s : State) (r : Response) : (s.respond r).fileHdr = s.fileHdr := rfl
@[simp] theorem respond_infoHdr (s : State) (r : Response) : (s.respond r).infoHdr = s.infoHdr := rfl
@[simp] theorem respond_pal (s : State) (r : Response) : (s.respond r).pal = s.pal := rfl
@[simp] theorem respond_pix0 (s : State) (r : Response) : (s.respond r).pix0 = s.pix0 := rfl
@[simp] theorem respond_pix1 (s : State) (r : Response) : (s.respond r).pix1 = s.pix1 := rfl
@[simp] theorem respond_inMem (s : State) (r : Response) : (s.respond r).inMem = s.inMem := rfl
@[simp] theorem respond_awaitSync (s : State) (r : Response) : (s.respond r).awaitSync = s.awaitSync := rfl
@[simp] theorem respond_hostFault (s : State) (r : Response) : (s.respond r).hostFault = s.hostFault := rfl
@[simp] theorem respond_pending (s : State) (r : Response) : (s.respond r).pending = s.pending := rfl
@[simp] theorem respond_response (s : State) (r : Response) : (s.respond r).response = some r := rfl
@[simp] theorem respond_resets (s : State) (r : Response) : (s.respond r).resets = s.resets := rfl
@[simp] theorem respond_draws (s : State) (r : Response) : (s.respond r).draws = s.draws := rfl

/-! Only STATUS.TRUNC changes (R116). -/

@[simp] theorem setTrunc_params (s : State) : s.setTrunc.params = s.params := rfl
@[simp] theorem setTrunc_seq (s : State) : s.setTrunc.seq = s.seq := rfl
@[simp] theorem setTrunc_status (s : State) : s.setTrunc.status = { s.status with trunc := true } := rfl
@[simp] theorem setTrunc_cfg (s : State) : s.setTrunc.cfg = s.cfg := rfl
@[simp] theorem setTrunc_param (s : State) : s.setTrunc.param = s.param := rfl
@[simp] theorem setTrunc_inLen (s : State) : s.setTrunc.inLen = s.inLen := rfl
@[simp] theorem setTrunc_gridW (s : State) : s.setTrunc.gridW = s.gridW := rfl
@[simp] theorem setTrunc_gridH (s : State) : s.setTrunc.gridH = s.gridH := rfl
@[simp] theorem setTrunc_rowBytes (s : State) : s.setTrunc.rowBytes = s.rowBytes := rfl
@[simp] theorem setTrunc_rowsDone (s : State) : s.setTrunc.rowsDone = s.rowsDone := rfl
@[simp] theorem setTrunc_fileHdr (s : State) : s.setTrunc.fileHdr = s.fileHdr := rfl
@[simp] theorem setTrunc_infoHdr (s : State) : s.setTrunc.infoHdr = s.infoHdr := rfl
@[simp] theorem setTrunc_pal (s : State) : s.setTrunc.pal = s.pal := rfl
@[simp] theorem setTrunc_pix0 (s : State) : s.setTrunc.pix0 = s.pix0 := rfl
@[simp] theorem setTrunc_pix1 (s : State) : s.setTrunc.pix1 = s.pix1 := rfl
@[simp] theorem setTrunc_inMem (s : State) : s.setTrunc.inMem = s.inMem := rfl
@[simp] theorem setTrunc_awaitSync (s : State) : s.setTrunc.awaitSync = s.awaitSync := rfl
@[simp] theorem setTrunc_hostFault (s : State) : s.setTrunc.hostFault = s.hostFault := rfl
@[simp] theorem setTrunc_pending (s : State) : s.setTrunc.pending = s.pending := rfl
@[simp] theorem setTrunc_response (s : State) : s.setTrunc.response = s.response := rfl
@[simp] theorem setTrunc_resets (s : State) : s.setTrunc.resets = s.resets := rfl
@[simp] theorem setTrunc_draws (s : State) : s.setTrunc.draws = s.draws := rfl

/-! The grid commit writes GRID_W, GRID_H and CUR_BANK only (R115). -/

@[simp] theorem commitGrid_params (s : State) : (commitGrid s).params = s.params := rfl
@[simp] theorem commitGrid_seq (s : State) : (commitGrid s).seq = s.seq := rfl
@[simp] theorem commitGrid_status (s : State) : (commitGrid s).status = { s.status with curBank := .bank0 } := rfl
@[simp] theorem commitGrid_cfg (s : State) : (commitGrid s).cfg = s.cfg := rfl
@[simp] theorem commitGrid_param (s : State) : (commitGrid s).param = s.param := rfl
@[simp] theorem commitGrid_inLen (s : State) : (commitGrid s).inLen = s.inLen := rfl
@[simp] theorem commitGrid_gridW (s : State) : (commitGrid s).gridW = s.infoHdr.width := rfl
@[simp] theorem commitGrid_gridH (s : State) : (commitGrid s).gridH = s.infoHdr.height := rfl
@[simp] theorem commitGrid_rowBytes (s : State) : (commitGrid s).rowBytes = s.rowBytes := rfl
@[simp] theorem commitGrid_rowsDone (s : State) : (commitGrid s).rowsDone = s.rowsDone := rfl
@[simp] theorem commitGrid_fileHdr (s : State) : (commitGrid s).fileHdr = s.fileHdr := rfl
@[simp] theorem commitGrid_infoHdr (s : State) : (commitGrid s).infoHdr = s.infoHdr := rfl
@[simp] theorem commitGrid_pal (s : State) : (commitGrid s).pal = s.pal := rfl
@[simp] theorem commitGrid_pix0 (s : State) : (commitGrid s).pix0 = s.pix0 := rfl
@[simp] theorem commitGrid_pix1 (s : State) : (commitGrid s).pix1 = s.pix1 := rfl
@[simp] theorem commitGrid_inMem (s : State) : (commitGrid s).inMem = s.inMem := rfl
@[simp] theorem commitGrid_awaitSync (s : State) : (commitGrid s).awaitSync = s.awaitSync := rfl
@[simp] theorem commitGrid_hostFault (s : State) : (commitGrid s).hostFault = s.hostFault := rfl
@[simp] theorem commitGrid_pending (s : State) : (commitGrid s).pending = s.pending := rfl
@[simp] theorem commitGrid_response (s : State) : (commitGrid s).response = s.response := rfl
@[simp] theorem commitGrid_resets (s : State) : (commitGrid s).resets = s.resets := rfl
@[simp] theorem commitGrid_draws (s : State) : (commitGrid s).draws = s.draws := rfl

/-! A row writes bank 0 only (R116). -/

@[simp] theorem unpackRow_params (s : State) (r : Nat) : (unpackRow s r).params = s.params := rfl
@[simp] theorem unpackRow_seq (s : State) (r : Nat) : (unpackRow s r).seq = s.seq := rfl
@[simp] theorem unpackRow_status (s : State) (r : Nat) : (unpackRow s r).status = s.status := rfl
@[simp] theorem unpackRow_cfg (s : State) (r : Nat) : (unpackRow s r).cfg = s.cfg := rfl
@[simp] theorem unpackRow_param (s : State) (r : Nat) : (unpackRow s r).param = s.param := rfl
@[simp] theorem unpackRow_inLen (s : State) (r : Nat) : (unpackRow s r).inLen = s.inLen := rfl
@[simp] theorem unpackRow_gridW (s : State) (r : Nat) : (unpackRow s r).gridW = s.gridW := rfl
@[simp] theorem unpackRow_gridH (s : State) (r : Nat) : (unpackRow s r).gridH = s.gridH := rfl
@[simp] theorem unpackRow_rowBytes (s : State) (r : Nat) : (unpackRow s r).rowBytes = s.rowBytes := rfl
@[simp] theorem unpackRow_rowsDone (s : State) (r : Nat) : (unpackRow s r).rowsDone = s.rowsDone := rfl
@[simp] theorem unpackRow_fileHdr (s : State) (r : Nat) : (unpackRow s r).fileHdr = s.fileHdr := rfl
@[simp] theorem unpackRow_infoHdr (s : State) (r : Nat) : (unpackRow s r).infoHdr = s.infoHdr := rfl
@[simp] theorem unpackRow_pal (s : State) (r : Nat) : (unpackRow s r).pal = s.pal := rfl
@[simp] theorem unpackRow_pix0 (s : State) (r : Nat) : (unpackRow s r).pix0 = Memory.fill s.pix0 (r * s.hdrWidth) (s.rowPixel r) s.hdrWidth := rfl
@[simp] theorem unpackRow_pix1 (s : State) (r : Nat) : (unpackRow s r).pix1 = s.pix1 := rfl
@[simp] theorem unpackRow_inMem (s : State) (r : Nat) : (unpackRow s r).inMem = s.inMem := rfl
@[simp] theorem unpackRow_awaitSync (s : State) (r : Nat) : (unpackRow s r).awaitSync = s.awaitSync := rfl
@[simp] theorem unpackRow_hostFault (s : State) (r : Nat) : (unpackRow s r).hostFault = s.hostFault := rfl
@[simp] theorem unpackRow_pending (s : State) (r : Nat) : (unpackRow s r).pending = s.pending := rfl
@[simp] theorem unpackRow_response (s : State) (r : Nat) : (unpackRow s r).response = s.response := rfl
@[simp] theorem unpackRow_resets (s : State) (r : Nat) : (unpackRow s r).resets = s.resets := rfl
@[simp] theorem unpackRow_draws (s : State) (r : Nat) : (unpackRow s r).draws = s.draws := rfl

/-! The end of the row loop writes bank 0 and ROWS_DONE only (R125, R126). -/

@[simp] theorem finishRows_params (s : State) (r : Nat) : (finishRows s r).params = s.params := rfl
@[simp] theorem finishRows_seq (s : State) (r : Nat) : (finishRows s r).seq = s.seq := rfl
@[simp] theorem finishRows_status (s : State) (r : Nat) : (finishRows s r).status = s.status := rfl
@[simp] theorem finishRows_cfg (s : State) (r : Nat) : (finishRows s r).cfg = s.cfg := rfl
@[simp] theorem finishRows_param (s : State) (r : Nat) : (finishRows s r).param = s.param := rfl
@[simp] theorem finishRows_inLen (s : State) (r : Nat) : (finishRows s r).inLen = s.inLen := rfl
@[simp] theorem finishRows_gridW (s : State) (r : Nat) : (finishRows s r).gridW = s.gridW := rfl
@[simp] theorem finishRows_gridH (s : State) (r : Nat) : (finishRows s r).gridH = s.gridH := rfl
@[simp] theorem finishRows_rowBytes (s : State) (r : Nat) : (finishRows s r).rowBytes = s.rowBytes := rfl
@[simp] theorem finishRows_rowsDone (s : State) (r : Nat) : (finishRows s r).rowsDone = BitVec.ofNat 32 r := rfl
@[simp] theorem finishRows_fileHdr (s : State) (r : Nat) : (finishRows s r).fileHdr = s.fileHdr := rfl
@[simp] theorem finishRows_infoHdr (s : State) (r : Nat) : (finishRows s r).infoHdr = s.infoHdr := rfl
@[simp] theorem finishRows_pal (s : State) (r : Nat) : (finishRows s r).pal = s.pal := rfl
@[simp] theorem finishRows_pix0 (s : State) (r : Nat) : (finishRows s r).pix0 = Memory.fillRows s.pix0 s.hdrWidth r (fun _ _ => Pixel.black) (s.hdrHeight - r) := rfl
@[simp] theorem finishRows_pix1 (s : State) (r : Nat) : (finishRows s r).pix1 = s.pix1 := rfl
@[simp] theorem finishRows_inMem (s : State) (r : Nat) : (finishRows s r).inMem = s.inMem := rfl
@[simp] theorem finishRows_awaitSync (s : State) (r : Nat) : (finishRows s r).awaitSync = s.awaitSync := rfl
@[simp] theorem finishRows_hostFault (s : State) (r : Nat) : (finishRows s r).hostFault = s.hostFault := rfl
@[simp] theorem finishRows_pending (s : State) (r : Nat) : (finishRows s r).pending = s.pending := rfl
@[simp] theorem finishRows_response (s : State) (r : Nat) : (finishRows s r).response = s.response := rfl
@[simp] theorem finishRows_resets (s : State) (r : Nat) : (finishRows s r).resets = s.resets := rfl
@[simp] theorem finishRows_draws (s : State) (r : Nat) : (finishRows s r).draws = s.draws := rfl

/-! A host fault sets the mark and draws the response only (R178). -/

@[simp] theorem takeHostFault_params (s : State) : s.takeHostFault.params = s.params := rfl
@[simp] theorem takeHostFault_seq (s : State) : s.takeHostFault.seq = s.seq := rfl
@[simp] theorem takeHostFault_status (s : State) : s.takeHostFault.status = s.status := rfl
@[simp] theorem takeHostFault_cfg (s : State) : s.takeHostFault.cfg = s.cfg := rfl
@[simp] theorem takeHostFault_param (s : State) : s.takeHostFault.param = s.param := rfl
@[simp] theorem takeHostFault_inLen (s : State) : s.takeHostFault.inLen = s.inLen := rfl
@[simp] theorem takeHostFault_gridW (s : State) : s.takeHostFault.gridW = s.gridW := rfl
@[simp] theorem takeHostFault_gridH (s : State) : s.takeHostFault.gridH = s.gridH := rfl
@[simp] theorem takeHostFault_rowBytes (s : State) : s.takeHostFault.rowBytes = s.rowBytes := rfl
@[simp] theorem takeHostFault_rowsDone (s : State) : s.takeHostFault.rowsDone = s.rowsDone := rfl
@[simp] theorem takeHostFault_fileHdr (s : State) : s.takeHostFault.fileHdr = s.fileHdr := rfl
@[simp] theorem takeHostFault_infoHdr (s : State) : s.takeHostFault.infoHdr = s.infoHdr := rfl
@[simp] theorem takeHostFault_pal (s : State) : s.takeHostFault.pal = s.pal := rfl
@[simp] theorem takeHostFault_pix0 (s : State) : s.takeHostFault.pix0 = s.pix0 := rfl
@[simp] theorem takeHostFault_pix1 (s : State) : s.takeHostFault.pix1 = s.pix1 := rfl
@[simp] theorem takeHostFault_inMem (s : State) : s.takeHostFault.inMem = s.inMem := rfl
@[simp] theorem takeHostFault_awaitSync (s : State) : s.takeHostFault.awaitSync = s.awaitSync := rfl
@[simp] theorem takeHostFault_hostFault (s : State) : s.takeHostFault.hostFault = true := rfl
@[simp] theorem takeHostFault_pending (s : State) : s.takeHostFault.pending = s.pending := rfl
@[simp] theorem takeHostFault_response (s : State) : s.takeHostFault.response = some (.write (if Config.faultOkay s.draws then .okay else .error)) := rfl
@[simp] theorem takeHostFault_resets (s : State) : s.takeHostFault.resets = s.resets := rfl
@[simp] theorem takeHostFault_draws (s : State) : s.takeHostFault.draws = s.draws + 1 := rfl

/-! Reset, field by field (R43, R170). -/

@[simp] theorem takeReset_params (s : State) : s.takeReset.params = s.params := rfl
@[simp] theorem takeReset_seq (s : State) : s.takeReset.seq = .idle := rfl
@[simp] theorem takeReset_status (s : State) : s.takeReset.status = Status.reset := rfl
@[simp] theorem takeReset_cfg (s : State) : s.takeReset.cfg = Cfg.reset := rfl
@[simp] theorem takeReset_param (s : State) : s.takeReset.param = 0 := rfl
@[simp] theorem takeReset_inLen (s : State) : s.takeReset.inLen = 0 := rfl
@[simp] theorem takeReset_gridW (s : State) : s.takeReset.gridW = 0 := rfl
@[simp] theorem takeReset_gridH (s : State) : s.takeReset.gridH = 0 := rfl
@[simp] theorem takeReset_rowBytes (s : State) : s.takeReset.rowBytes = 0 := rfl
@[simp] theorem takeReset_rowsDone (s : State) : s.takeReset.rowsDone = 0 := rfl
@[simp] theorem takeReset_fileHdr (s : State) : s.takeReset.fileHdr = FileHeader.reset := rfl
@[simp] theorem takeReset_infoHdr (s : State) : s.takeReset.infoHdr = InfoHeader.reset := rfl
@[simp] theorem takeReset_pal (s : State) : s.takeReset.pal = [] := rfl
@[simp] theorem takeReset_pix0 (s : State) : s.takeReset.pix0 = [] := rfl
@[simp] theorem takeReset_pix1 (s : State) : s.takeReset.pix1 = [] := rfl
@[simp] theorem takeReset_inMem (s : State) : s.takeReset.inMem = [] := rfl
@[simp] theorem takeReset_awaitSync (s : State) : s.takeReset.awaitSync = false := rfl
@[simp] theorem takeReset_hostFault (s : State) : s.takeReset.hostFault = s.hostFault := rfl
@[simp] theorem takeReset_pending (s : State) : s.takeReset.pending = s.pending := rfl
@[simp] theorem takeReset_response (s : State) : s.takeReset.response = s.response := rfl
@[simp] theorem takeReset_resets (s : State) : s.takeReset.resets = s.resets + 1 := rfl
@[simp] theorem takeReset_draws (s : State) : s.takeReset.draws = s.draws := rfl

/-! Replacing a bank's storage changes that bank only. -/

@[simp] theorem setBank_params (s : State) (b : Bank) (m : List (Nat × Pixel)) : (s.setBank b m).params = s.params := by
  cases b <;> rfl
@[simp] theorem setBank_seq (s : State) (b : Bank) (m : List (Nat × Pixel)) : (s.setBank b m).seq = s.seq := by
  cases b <;> rfl
@[simp] theorem setBank_status (s : State) (b : Bank) (m : List (Nat × Pixel)) : (s.setBank b m).status = s.status := by
  cases b <;> rfl
@[simp] theorem setBank_cfg (s : State) (b : Bank) (m : List (Nat × Pixel)) : (s.setBank b m).cfg = s.cfg := by
  cases b <;> rfl
@[simp] theorem setBank_param (s : State) (b : Bank) (m : List (Nat × Pixel)) : (s.setBank b m).param = s.param := by
  cases b <;> rfl
@[simp] theorem setBank_inLen (s : State) (b : Bank) (m : List (Nat × Pixel)) : (s.setBank b m).inLen = s.inLen := by
  cases b <;> rfl
@[simp] theorem setBank_gridW (s : State) (b : Bank) (m : List (Nat × Pixel)) : (s.setBank b m).gridW = s.gridW := by
  cases b <;> rfl
@[simp] theorem setBank_gridH (s : State) (b : Bank) (m : List (Nat × Pixel)) : (s.setBank b m).gridH = s.gridH := by
  cases b <;> rfl
@[simp] theorem setBank_rowBytes (s : State) (b : Bank) (m : List (Nat × Pixel)) : (s.setBank b m).rowBytes = s.rowBytes := by
  cases b <;> rfl
@[simp] theorem setBank_rowsDone (s : State) (b : Bank) (m : List (Nat × Pixel)) : (s.setBank b m).rowsDone = s.rowsDone := by
  cases b <;> rfl
@[simp] theorem setBank_fileHdr (s : State) (b : Bank) (m : List (Nat × Pixel)) : (s.setBank b m).fileHdr = s.fileHdr := by
  cases b <;> rfl
@[simp] theorem setBank_infoHdr (s : State) (b : Bank) (m : List (Nat × Pixel)) : (s.setBank b m).infoHdr = s.infoHdr := by
  cases b <;> rfl
@[simp] theorem setBank_pal (s : State) (b : Bank) (m : List (Nat × Pixel)) : (s.setBank b m).pal = s.pal := by
  cases b <;> rfl
@[simp] theorem setBank_inMem (s : State) (b : Bank) (m : List (Nat × Pixel)) : (s.setBank b m).inMem = s.inMem := by
  cases b <;> rfl
@[simp] theorem setBank_awaitSync (s : State) (b : Bank) (m : List (Nat × Pixel)) : (s.setBank b m).awaitSync = s.awaitSync := by
  cases b <;> rfl
@[simp] theorem setBank_hostFault (s : State) (b : Bank) (m : List (Nat × Pixel)) : (s.setBank b m).hostFault = s.hostFault := by
  cases b <;> rfl
@[simp] theorem setBank_pending (s : State) (b : Bank) (m : List (Nat × Pixel)) : (s.setBank b m).pending = s.pending := by
  cases b <;> rfl
@[simp] theorem setBank_response (s : State) (b : Bank) (m : List (Nat × Pixel)) : (s.setBank b m).response = s.response := by
  cases b <;> rfl
@[simp] theorem setBank_resets (s : State) (b : Bank) (m : List (Nat × Pixel)) : (s.setBank b m).resets = s.resets := by
  cases b <;> rfl
@[simp] theorem setBank_draws (s : State) (b : Bank) (m : List (Nat × Pixel)) : (s.setBank b m).draws = s.draws := by
  cases b <;> rfl

/-! The start effects, flag by flag (R91). -/

@[simp] theorem Status.start_done (st : Status) : st.start.done = false := rfl
@[simp] theorem Status.start_err (st : Status) : st.start.err = false := rfl
@[simp] theorem Status.start_trunc (st : Status) : st.start.trunc = false := rfl
@[simp] theorem Status.start_range (st : Status) : st.start.range = false := rfl
@[simp] theorem Status.start_curBank (st : Status) : st.start.curBank = st.curBank := rfl
@[simp] theorem Status.start_lost (st : Status) : st.start.lost = st.lost := rfl
@[simp] theorem Status.start_errCode (st : Status) : st.start.errCode = 0 := rfl

/-! The end effect, flag by flag (R92). -/

@[simp] theorem Status.ended_done (st : Status) : st.ended.done = true := rfl
@[simp] theorem Status.ended_err (st : Status) : st.ended.err = st.err := rfl
@[simp] theorem Status.ended_trunc (st : Status) : st.ended.trunc = st.trunc := rfl
@[simp] theorem Status.ended_range (st : Status) : st.ended.range = st.range := rfl
@[simp] theorem Status.ended_curBank (st : Status) : st.ended.curBank = st.curBank := rfl
@[simp] theorem Status.ended_lost (st : Status) : st.ended.lost = st.lost := rfl
@[simp] theorem Status.ended_errCode (st : Status) : st.ended.errCode = st.errCode := rfl

/-! What `raise` records, flag by flag (R153). -/

@[simp] theorem Status.failed_done (st : Status) (e : EngineError) : (st.failed e).done = st.done := rfl
@[simp] theorem Status.failed_err (st : Status) (e : EngineError) : (st.failed e).err = true := rfl
@[simp] theorem Status.failed_trunc (st : Status) (e : EngineError) : (st.failed e).trunc = st.trunc := rfl
@[simp] theorem Status.failed_range (st : Status) (e : EngineError) : (st.failed e).range = st.range := rfl
@[simp] theorem Status.failed_curBank (st : Status) (e : EngineError) : (st.failed e).curBank = st.curBank := rfl
@[simp] theorem Status.failed_lost (st : Status) (e : EngineError) : (st.failed e).lost = st.lost := rfl
@[simp] theorem Status.failed_errCode (st : Status) (e : EngineError) : (st.failed e).errCode = e.code := rfl

/-! Write one to clear, flag by flag (R37). -/

@[simp] theorem Status.clear_done (st : Status) (w : Word) : (st.clear w).done = (st.done && !w.getLsbD 1) := rfl
@[simp] theorem Status.clear_err (st : Status) (w : Word) : (st.clear w).err = st.err := rfl
@[simp] theorem Status.clear_trunc (st : Status) (w : Word) : (st.clear w).trunc = st.trunc := rfl
@[simp] theorem Status.clear_range (st : Status) (w : Word) : (st.clear w).range = st.range := rfl
@[simp] theorem Status.clear_curBank (st : Status) (w : Word) : (st.clear w).curBank = st.curBank := rfl
@[simp] theorem Status.clear_lost (st : Status) (w : Word) : (st.clear w).lost = (st.lost && !w.getLsbD 6) := rfl
@[simp] theorem Status.clear_errCode (st : Status) (w : Word) : (st.clear w).errCode = st.errCode := rfl

/-! A pass of CONV, flag by flag (R136, R140, R141). -/

@[simp] theorem Status.passed_done (st : Status) (r : Bool) : (st.passed r).done = st.done := rfl
@[simp] theorem Status.passed_err (st : Status) (r : Bool) : (st.passed r).err = st.err := rfl
@[simp] theorem Status.passed_trunc (st : Status) (r : Bool) : (st.passed r).trunc = st.trunc := rfl
@[simp] theorem Status.passed_range (st : Status) (r : Bool) : (st.passed r).range = (st.range || r) := rfl
@[simp] theorem Status.passed_curBank (st : Status) (r : Bool) : (st.passed r).curBank = st.curBank.other := rfl
@[simp] theorem Status.passed_lost (st : Status) (r : Bool) : (st.passed r).lost = st.lost := rfl
@[simp] theorem Status.passed_errCode (st : Status) (r : Bool) : (st.passed r).errCode = st.errCode := rfl

/-! The banks. -/

@[simp] theorem Bank.other_other (b : Bank) : b.other.other = b := by cases b <;> rfl

theorem Bank.other_ne (b : Bank) : b.other ≠ b := by cases b <;> simp [Bank.other]

@[simp] theorem bank_setBank_self (s : State) (b : Bank) (m : List (Nat × Pixel)) : (s.setBank b m).bank b = m := by
  cases b <;> rfl

theorem bank_setBank_ne (s : State) {b c : Bank} (m : List (Nat × Pixel)) (h : c ≠ b) :
    (s.setBank b m).bank c = s.bank c := by
  cases b <;> cases c <;> first | rfl | exact absurd rfl h

/-- A read of a pixel bank depends on the two banks' storage and the reset count only. -/
theorem pixel_congr {s t : State} (h0 : t.pix0 = s.pix0) (h1 : t.pix1 = s.pix1) (hr : t.resets = s.resets) (b : Bank)
    (i : Nat) : t.pixel b i = s.pixel b i := by
  cases b <;> simp [State.pixel, State.bank, h0, h1, hr]

theorem inByte_congr {s t : State} (h : t.inMem = s.inMem) (hr : t.resets = s.resets) (a : Nat) :
    t.inByte a = s.inByte a := by
  simp [State.inByte, h, hr]

theorem palEntry_congr {s t : State} (h : t.pal = s.pal) (hr : t.resets = s.resets) (i : Nat) :
    t.palEntry i = s.palEntry i := by
  simp [State.palEntry, h, hr]

theorem memRead_congr_bytes {s t : State} {a n : Nat} (h : ∀ k < n, t.inByte (a + k) = s.inByte (a + k)) :
    t.memRead a n = s.memRead a n := by
  induction n generalizing a with
  | zero => rfl
  | succ n ih =>
    rw [State.memRead, State.memRead, ih fun k hk => by
      have := h (k + 1) (by omega)
      rwa [show a + (k + 1) = a + 1 + k by omega] at this]
    rw [show t.inByte a = s.inByte a from h 0 (by omega)]

theorem memRead_congr {s t : State} (h : t.inMem = s.inMem) (hr : t.resets = s.resets) (a n : Nat) :
    t.memRead a n = s.memRead a n :=
  memRead_congr_bytes fun _ _ => inByte_congr h hr _

theorem field_congr {s t : State} (h : t.inMem = s.inMem) (hr : t.resets = s.resets) (base p b : Nat) :
    t.field base p b = s.field base p b := by
  simp only [State.field, memRead_congr h hr]

/-- The value of n bytes fits n bytes. -/
theorem memRead_lt (s : State) (a n : Nat) : s.memRead a n < 2 ^ (8 * n) := by
  induction n generalizing a with
  | zero => simp [State.memRead]
  | succ n ih =>
    have hb := (s.inByte a).isLt
    have := ih (a + 1)
    have e : 2 ^ (8 * (n + 1)) = 256 * 2 ^ (8 * n) := by rw [Nat.mul_add, Nat.pow_add]; ring
    rw [State.memRead, e]
    omega

theorem le32_toNat (s : State) (a : Nat) : (s.le32 a).toNat = s.memRead a 4 := by
  have := memRead_lt s a 4
  simp only [State.le32, BitVec.toNat_ofNat]
  exact Nat.mod_eq_of_lt (by simpa using this)

theorem le16_toNat (s : State) (a : Nat) : (s.le16 a).toNat = s.memRead a 2 := by
  have := memRead_lt s a 2
  simp only [State.le16, BitVec.toNat_ofNat]
  exact Nat.mod_eq_of_lt (lt_trans this (by norm_num))

end Sys2Proof.Machine
end

