-- ==== Sys2Proof/Laws/Parse.lean ====
section
/-! SUPPORT. What the header parser can do, said once: it stops where `headerError` says, with the stages before it done, and
otherwise it goes on with every stage done. -/

namespace Sys2Proof.Machine

/-! ### Stages -/

@[simp] theorem Stage.andThen_go (s : State) (f : State → Stage) : (Stage.go s).andThen f = f s := rfl
@[simp] theorem Stage.andThen_stop (e : EngineError) (s : State) (f : State → Stage) :
    (Stage.stop e s).andThen f = .stop e s := rfl
@[simp] theorem Stage.ended_go (s : State) : (Stage.go s).ended = s.finish := rfl
@[simp] theorem Stage.ended_stop (e : EngineError) (s : State) : (Stage.stop e s).ended = s.raise e := rfl

/-- A stage chain goes on only where each part does. -/
theorem Stage.andThen_eq_go {x : Stage} {f : State → Stage} {t : State} (h : x.andThen f = .go t) :
    ∃ s, x = .go s ∧ f s = .go t := by
  cases x with
  | go s => exact ⟨s, rfl, h⟩
  | stop e s => cases h

theorem failIf_pos {c : Prop} [Decidable c] (h : c) (e : EngineError) (s : State) : failIf c e s = .stop e s := if_pos h
theorem failIf_neg {c : Prop} [Decidable c] (h : ¬c) (e : EngineError) (s : State) : failIf c e s = .go s := if_neg h

/-! ### The headers -/

theorem le16_eq_iff (s : State) (a : Nat) (v : Word) : s.le16 a = v ↔ s.memRead a 2 = v.toNat := by
  rw [← BitVec.toNat_inj, le16_toNat]

theorem le32_eq_iff (s : State) (a : Nat) (v : Word) : s.le32 a = v ↔ s.memRead a 4 = v.toNat := by
  rw [← BitVec.toNat_inj, le32_toNat]

theorem readInfoHdr_congr {s t : State} (h : t.inMem = s.inMem) (hr : t.resets = s.resets) :
    t.readInfoHdr = s.readInfoHdr := by
  simp only [State.readInfoHdr, State.le16, State.le32, memRead_congr h hr]

theorem readFileHdr_congr {s t : State} (h : t.inMem = s.inMem) (hr : t.resets = s.resets) :
    t.readFileHdr = s.readFileHdr := by
  simp only [State.readFileHdr, State.le16, State.le32, memRead_congr h hr]

theorem streamEntry_congr {s t : State} (h : t.inMem = s.inMem) (hr : t.resets = s.resets) :
    t.streamEntry = s.streamEntry := by
  funext i
  simp only [State.streamEntry, inByte_congr h hr]

/-- The state with both headers' shadows written. -/
def State.withHeaders (s : State) : State := (s.setFileHdr s.readFileHdr).setInfoHdr s.readInfoHdr

/-- The state with the headers' shadows written and the palette loaded where the depth has one. -/
def State.withPalette (s : State) : State :=
  if s.streamBpp ≤ 8 then s.withHeaders.setPal (Memory.fill s.pal 0 s.streamEntry s.streamColors) else s.withHeaders

/-- The state after every parse stage. -/
def State.parsed (s : State) : State := s.withPalette.setRowBytes (BitVec.ofNat 32 s.streamStride)

/-- The shadows and palette an error leaves: those of the stages before the failing check (R153). -/
def State.partlyParsed (s : State) (e : EngineError) : State :=
  if s.streamLen < 14 then s
  else if s.memRead 0 2 ≠ 19778 ∨ s.streamLen < 54 then s.setFileHdr s.readFileHdr
  else if e = .seekError ∨ e = .allocationError then s.withPalette
  else s.withHeaders

@[simp] theorem withHeaders_fileHdr (s : State) : s.withHeaders.fileHdr = s.readFileHdr := rfl
@[simp] theorem withHeaders_infoHdr (s : State) : s.withHeaders.infoHdr = s.readInfoHdr := rfl
@[simp] theorem withHeaders_streamLen (s : State) : s.withHeaders.streamLen = s.streamLen := rfl
@[simp] theorem withHeaders_pal (s : State) : s.withHeaders.pal = s.pal := rfl
@[simp] theorem withHeaders_params (s : State) : s.withHeaders.params = s.params := rfl
theorem withHeaders_streamEntry (s : State) : s.withHeaders.streamEntry = s.streamEntry := rfl

theorem withHeaders_bpp (s : State) : s.withHeaders.bpp = s.streamBpp := le16_toNat s 28
theorem withHeaders_colors (s : State) : s.withHeaders.infoHdr.colorsUsed.toNat = s.streamColors := le32_toNat s 46
theorem withHeaders_width (s : State) : s.withHeaders.hdrWidth = s.streamWidth := le32_toNat s 18
theorem withHeaders_height (s : State) : s.withHeaders.hdrHeight = s.streamHeight := le32_toNat s 22

/-- `withPalette` differs from `withHeaders` in PAL only. -/
theorem withPalette_eq (s : State) : ∃ m, s.withPalette = s.withHeaders.setPal m := by
  unfold State.withPalette
  split
  · exact ⟨_, rfl⟩
  · exact ⟨s.pal, rfl⟩

/-- An error found after both headers are read, before the palette is loaded, leaves the shadows only. -/
theorem partlyParsed_headers {s : State} {e : EngineError} (h1 : ¬ s.streamLen < 14) (h2 : s.memRead 0 2 = 19778)
    (h3 : ¬ s.streamLen < 54) (h : e ≠ .seekError ∧ e ≠ .allocationError) : s.partlyParsed e = s.withHeaders := by
  rw [State.partlyParsed, if_neg h1, if_neg (fun hh => hh.elim (fun g => g h2) h3), if_neg (fun hh => hh.elim h.1 h.2)]

/-- An error found after the palette is loaded leaves the shadows and PAL. -/
theorem partlyParsed_palette {s : State} {e : EngineError} (h1 : ¬ s.streamLen < 14) (h2 : s.memRead 0 2 = 19778)
    (h3 : ¬ s.streamLen < 54) (h : e = .seekError ∨ e = .allocationError) : s.partlyParsed e = s.withPalette := by
  rw [State.partlyParsed, if_neg h1, if_neg (fun hh => hh.elim (fun g => g h2) h3), if_pos h]

/-- The palette stage, on a stream whose earlier checks pass. -/
theorem loadPalette_withHeaders {s : State}
    (hd : s.streamBpp = 1 ∨ s.streamBpp = 4 ∨ s.streamBpp = 8 ∨ s.streamBpp = 16 ∨ s.streamBpp = 24) :
    loadPalette s.withHeaders =
      if s.streamBpp ≤ 8 ∧ 54 + 4 * s.streamColors > s.streamLen then .stop .readError s.withHeaders
      else .go s.withPalette := by
  have e10 : paletteDepth s.withHeaders.bpp ↔ s.streamBpp ≤ 8 := by
    rw [withHeaders_bpp]
    unfold paletteDepth
    omega
  unfold loadPalette State.withPalette
  rw [withHeaders_colors, withHeaders_streamLen, withHeaders_pal, withHeaders_streamEntry]
  by_cases ha : s.streamBpp ≤ 8
  · rw [if_pos (e10.mpr ha), if_pos ha]
    by_cases hb : 54 + 4 * s.streamColors > s.streamLen
    · rw [if_pos hb, if_pos ⟨ha, hb⟩]
    · rw [if_neg hb, if_neg (fun h => hb h.2)]
  · rw [if_neg (e10.not.mpr ha), if_neg ha, if_neg (fun h => ha h.1)]

/-- The palette size check on the raw bytes. -/
theorem paletteSize_iff (s : State) :
    (paletteDepth s.withHeaders.bpp ∧ s.withHeaders.infoHdr.colorsUsed.toNat ≠ nPal s.withHeaders.bpp) ↔
      ((s.streamBpp = 1 ∧ s.streamColors ≠ 1) ∨ (s.streamBpp = 4 ∧ s.streamColors ≠ 16) ∨
        (s.streamBpp = 8 ∧ s.streamColors ≠ 256)) := by
  rw [withHeaders_bpp, withHeaders_colors]
  unfold nPal paletteDepth
  split_ifs <;> omega

/-- Every parse stage in one equation, on the raw bytes of the stream. -/
theorem parseHeaders_eq (s : State) :
    parseHeaders s = match s.headerError with
      | none => .go s.parsed
      | some e => .stop e (s.partlyParsed e) := by
  rw [State.headerError, parseHeaders]
  by_cases h1 : s.streamLen < 14
  · rw [if_pos h1, readFileHeader, if_pos h1]
    show Stage.stop _ _ = Stage.stop _ _
    rw [State.partlyParsed, if_pos h1]
  rw [if_neg h1, readFileHeader, if_neg h1, Stage.andThen_go, checkSignature]
  have e2 : (s.setFileHdr s.readFileHdr).fileHdr.signature = (0x00004D42 : Word) ↔ s.memRead 0 2 = 19778 :=
    le16_eq_iff s 0 0x00004D42
  by_cases h2 : s.memRead 0 2 = 19778
  swap
  · rw [if_pos h2, failIf_pos (e2.not.mpr h2)]
    show Stage.stop _ _ = Stage.stop _ _
    rw [State.partlyParsed, if_neg h1, if_pos (.inl h2)]
  rw [if_neg (not_not.mpr h2), failIf_neg (not_not.mpr (e2.mpr h2)), Stage.andThen_go, readInfoHeader]
  by_cases h3 : s.streamLen < 54
  · rw [if_pos h3, if_pos (show (s.setFileHdr s.readFileHdr).streamLen < 54 from h3)]
    show Stage.stop _ _ = Stage.stop _ _
    rw [State.partlyParsed, if_neg h1, if_pos (.inr h3)]
  rw [if_neg h3, if_neg (show ¬ (s.setFileHdr s.readFileHdr).streamLen < 54 from h3)]
  rw [show (s.setFileHdr s.readFileHdr).setInfoHdr (s.setFileHdr s.readFileHdr).readInfoHdr = s.withHeaders from rfl]
  have hh := fun e he => (partlyParsed_headers (e := e) h1 h2 h3 he).symm
  have hp := fun e he => (partlyParsed_palette (e := e) h1 h2 h3 he).symm
  rw [Stage.andThen_go, checkPlanes]
  have e4 : s.withHeaders.infoHdr.planes = (1 : Word) ↔ s.memRead 26 2 = 1 := le16_eq_iff s 26 1
  by_cases h4 : s.memRead 26 2 = 1
  swap
  · rw [if_pos h4, failIf_pos (e4.not.mpr h4)]
    exact congrArg _ (hh _ (by decide))
  rw [if_neg (not_not.mpr h4), failIf_neg (not_not.mpr (e4.mpr h4)), Stage.andThen_go, checkImportant]
  rw [withHeaders_colors, show s.withHeaders.infoHdr.important.toNat = s.memRead 50 4 from le32_toNat s 50]
  by_cases h5 : s.memRead 50 4 > s.streamColors
  · rw [if_pos h5, failIf_pos h5]
    exact congrArg _ (hh _ (by decide))
  rw [if_neg h5, failIf_neg h5, Stage.andThen_go, checkDepth, withHeaders_bpp]
  by_cases h6 : s.streamBpp = 1 ∨ s.streamBpp = 4 ∨ s.streamBpp = 8 ∨ s.streamBpp = 16 ∨ s.streamBpp = 24
  swap
  · rw [if_pos h6, failIf_pos h6]
    exact congrArg _ (hh _ (by decide))
  rw [if_neg (not_not.mpr h6), failIf_neg (not_not.mpr h6), Stage.andThen_go, checkPaletteSize]
  by_cases h7 : (s.streamBpp = 1 ∧ s.streamColors ≠ 1) ∨ (s.streamBpp = 4 ∧ s.streamColors ≠ 16) ∨
      (s.streamBpp = 8 ∧ s.streamColors ≠ 256)
  · rw [if_pos h7, failIf_pos ((paletteSize_iff s).mpr h7)]
    exact congrArg _ (hh _ (by decide))
  rw [if_neg h7, failIf_neg ((paletteSize_iff s).not.mpr h7), Stage.andThen_go, checkHeaderSize]
  have e8 : s.withHeaders.infoHdr.headerSize = (40 : Word) ↔ s.memRead 14 4 = 40 := le32_eq_iff s 14 40
  by_cases h8 : s.memRead 14 4 = 40
  swap
  · rw [if_pos h8, failIf_pos (e8.not.mpr h8)]
    exact congrArg _ (hh _ (by decide))
  rw [if_neg (not_not.mpr h8), failIf_neg (not_not.mpr (e8.mpr h8)), Stage.andThen_go, checkCompression]
  have e9 : s.withHeaders.infoHdr.compression = (0 : Word) ↔ s.memRead 30 4 = 0 := le32_eq_iff s 30 0
  by_cases h9 : s.memRead 30 4 = 0
  swap
  · rw [if_pos h9, failIf_pos (e9.not.mpr h9)]
    exact congrArg _ (hh _ (by decide))
  rw [if_neg (not_not.mpr h9), failIf_neg (not_not.mpr (e9.mpr h9)), Stage.andThen_go, loadPalette_withHeaders h6]
  by_cases h10 : s.streamBpp ≤ 8 ∧ 54 + 4 * s.streamColors > s.streamLen
  · rw [if_pos h10, if_pos h10]
    exact congrArg _ (hh _ (by decide))
  rw [if_neg h10, if_neg h10, Stage.andThen_go, seekData]
  obtain ⟨m, hm⟩ := withPalette_eq s
  have e12 : s.withPalette.fileHdr.dataOffset.toNat = s.streamOffset := by rw [hm]; exact le32_toNat s 10
  have e13 : s.withPalette.streamLen = s.streamLen := by rw [hm]; rfl
  have e14 : s.withPalette.hdrWidth = s.streamWidth := by rw [hm]; exact withHeaders_width s
  have e15 : s.withPalette.hdrHeight = s.streamHeight := by rw [hm]; exact withHeaders_height s
  have e16 : s.withPalette.params = s.params := by rw [hm]; rfl
  have e17 : s.withPalette.bpp = s.streamBpp := by rw [hm]; exact withHeaders_bpp s
  rw [e12, e13]
  by_cases h11 : s.streamOffset > s.streamLen
  · rw [if_pos h11, failIf_pos h11]
    exact congrArg _ (hp _ (.inl rfl))
  rw [if_neg h11, failIf_neg h11, Stage.andThen_go, allocateGrid, e14, e15]
  have e18 : badDims s.withPalette s.streamWidth s.streamHeight ↔
      (s.streamWidth = 0 ∨ s.streamHeight = 0 ∨ s.streamWidth * s.streamHeight > s.params.gridCap) := by
    rw [badDims, e16]
  by_cases h12 : s.streamWidth = 0 ∨ s.streamHeight = 0 ∨ s.streamWidth * s.streamHeight > s.params.gridCap
  · rw [if_pos h12, failIf_pos (e18.mpr h12)]
    exact congrArg _ (hp _ (.inr rfl))
  rw [if_neg h12, failIf_neg (e18.not.mpr h12), Stage.andThen_go, computeStride, e14, e17]
  show Stage.go _ = Stage.go _
  rw [State.parsed, State.streamStride]

/-! ### What the parsed state holds -/

@[simp] theorem parsed_fileHdr (s : State) : s.parsed.fileHdr = s.readFileHdr := by
  obtain ⟨m, hm⟩ := withPalette_eq s
  rw [State.parsed, hm]; rfl

@[simp] theorem parsed_infoHdr (s : State) : s.parsed.infoHdr = s.readInfoHdr := by
  obtain ⟨m, hm⟩ := withPalette_eq s
  rw [State.parsed, hm]; rfl

@[simp] theorem parsed_rowBytes (s : State) : s.parsed.rowBytes = BitVec.ofNat 32 s.streamStride := rfl

/-- The parse stages write the shadows, PAL and ROW_BYTES only. -/
theorem parsed_eq (s : State) :
    s.parsed = { s with
      fileHdr := s.readFileHdr
      infoHdr := s.readInfoHdr
      pal := s.parsed.pal
      rowBytes := BitVec.ofNat 32 s.streamStride } := by
  obtain ⟨m, hm⟩ := withPalette_eq s
  rw [State.parsed, hm]; rfl

/-- PAL after the parse stages: loaded entries from the stream, the others kept (R111). -/
theorem parsed_palEntry (s : State) (i : Nat) : s.parsed.palEntry i = s.loadedEntry s.streamEntry i := by
  unfold State.parsed State.withPalette State.loadedEntry
  split_ifs with h1 h2 h2
  · simp [State.palEntry, Memory.get?_fill, h2.2]
  · have : ¬ i < s.streamColors := fun h => h2 ⟨h1, h⟩
    simp [State.palEntry, Memory.get?_fill, this, State.withHeaders]
  · exact absurd h2.1 h1
  · rfl

/-- An error leaves everything but the shadows and PAL. -/
theorem partlyParsed_eq (s : State) (e : EngineError) :
    s.partlyParsed e = { s with
      fileHdr := (s.partlyParsed e).fileHdr
      infoHdr := (s.partlyParsed e).infoHdr
      pal := (s.partlyParsed e).pal } := by
  unfold State.partlyParsed
  split_ifs
  · rfl
  · rfl
  · obtain ⟨m, hm⟩ := withPalette_eq s
    rw [hm]; rfl
  · rfl

/-- Facts a stream that passes every check gives. -/
theorem headerError_none {s : State} (h : s.headerError = none) :
    54 ≤ s.streamLen ∧ (s.streamBpp = 1 ∨ s.streamBpp = 4 ∨ s.streamBpp = 8 ∨ s.streamBpp = 16 ∨ s.streamBpp = 24) ∧
      (s.streamBpp = 1 → s.streamColors = 1) ∧ (s.streamBpp = 4 → s.streamColors = 16) ∧
      (s.streamBpp = 8 → s.streamColors = 256) ∧ (s.streamBpp ≤ 8 → 54 + 4 * s.streamColors ≤ s.streamLen) ∧
      s.streamOffset ≤ s.streamLen ∧ 0 < s.streamWidth ∧ 0 < s.streamHeight ∧
      s.streamWidth * s.streamHeight ≤ s.params.gridCap := by
  rw [State.headerError] at h
  have next : ∀ {c : Prop} [Decidable c] {e : EngineError} {r : Option EngineError},
      (if c then some e else r) = none → ¬ c ∧ r = none := by
    intro c _ e r hr
    by_cases hc : c
    · rw [if_pos hc] at hr; cases hr
    · exact ⟨hc, by rwa [if_neg hc] at hr⟩
  obtain ⟨-, h⟩ := next h
  obtain ⟨-, h⟩ := next h
  obtain ⟨h3, h⟩ := next h
  obtain ⟨-, h⟩ := next h
  obtain ⟨-, h⟩ := next h
  obtain ⟨h6, h⟩ := next h
  obtain ⟨h7, h⟩ := next h
  obtain ⟨-, h⟩ := next h
  obtain ⟨-, h⟩ := next h
  obtain ⟨h10, h⟩ := next h
  obtain ⟨h11, h⟩ := next h
  obtain ⟨h12, -⟩ := next h
  rw [not_not] at h6
  refine ⟨by omega, h6, by omega, by omega, by omega, ?_, by omega, by omega, by omega, by omega⟩
  intro hb
  by_contra hc
  exact h10 ⟨hb, by omega⟩

/-- A stream that passes every check has the signature (R103). -/
theorem headerError_none_signature {s : State} (h : s.headerError = none) : s.memRead 0 2 = 19778 := by
  by_contra hc
  rw [State.headerError] at h
  by_cases h1 : s.streamLen < 14
  · rw [if_pos h1] at h; cases h
  · rw [if_neg h1, if_pos hc] at h; cases h

/-- The errors a header check can give (R155). -/
theorem headerError_mem {s : State} {e : EngineError} (h : s.headerError = some e) :
    e ∈ [EngineError.invalidSignature, .tooManyPlanes, .invalidColorTable, .invalidBitDepth, .invalidHeaderSize,
      .unsupportedCompression, .readError, .seekError, .allocationError] := by
  have next : ∀ {c : Prop} [Decidable c] {a : EngineError} {r : Option EngineError},
      (if c then some a else r) = some e → e = a ∨ r = some e := by
    intro c _ a r h
    by_cases hc : c
    · rw [if_pos hc] at h; cases h; exact .inl rfl
    · rw [if_neg hc] at h; exact .inr h
  rw [State.headerError] at h
  iterate 12
    rcases next h with rfl | h
    · decide
  cases h

/-- The file-header fields byte by byte (R30). -/
theorem readFileHdr_bytes (s : State) :
    let b := fun a => (s.inByte a).toNat
    s.readFileHdr.signature.toNat = b 0 + b 1 * 2 ^ 8 ∧
      s.readFileHdr.fileSize.toNat = b 2 + b 3 * 2 ^ 8 + b 4 * 2 ^ 16 + b 5 * 2 ^ 24 ∧
      s.readFileHdr.reserved.toNat = b 6 + b 7 * 2 ^ 8 + b 8 * 2 ^ 16 + b 9 * 2 ^ 24 ∧
      s.readFileHdr.dataOffset.toNat = b 10 + b 11 * 2 ^ 8 + b 12 * 2 ^ 16 + b 13 * 2 ^ 24 := by
  intro b
  simp only [State.readFileHdr, le16_toNat, le32_toNat, State.memRead, b]
  refine ⟨?_, ?_, ?_, ?_⟩ <;> ring

/-- The info-header fields byte by byte (R31). -/
theorem readInfoHdr_bytes (s : State) :
    let b := fun a => (s.inByte a).toNat
    let w := fun a => b a + b (a + 1) * 2 ^ 8 + b (a + 2) * 2 ^ 16 + b (a + 3) * 2 ^ 24
    s.readInfoHdr.headerSize.toNat = w 14 ∧ s.readInfoHdr.width.toNat = w 18 ∧ s.readInfoHdr.height.toNat = w 22 ∧
      s.readInfoHdr.planes.toNat = b 26 + b 27 * 2 ^ 8 ∧ s.readInfoHdr.bpp.toNat = b 28 + b 29 * 2 ^ 8 ∧
      s.readInfoHdr.compression.toNat = w 30 ∧ s.readInfoHdr.imageSize.toNat = w 34 ∧ s.readInfoHdr.xppm.toNat = w 38 ∧
      s.readInfoHdr.yppm.toNat = w 42 ∧ s.readInfoHdr.colorsUsed.toNat = w 46 ∧ s.readInfoHdr.important.toNat = w 50 := by
  intro b w
  simp only [State.readInfoHdr, le16_toNat, le32_toNat, State.memRead, b, w]
  refine ⟨?_, ?_, ?_, ?_, ?_, ?_, ?_, ?_, ?_, ?_, ?_⟩ <;> ring

/-- The signature check on the two bytes (R103). -/
theorem signature_iff (s : State) : s.memRead 0 2 = 19778 ↔ s.inByte 0 = 0x42 ∧ s.inByte 1 = 0x4D := by
  have h0 := (s.inByte 0).isLt
  have h1 := (s.inByte 1).isLt
  rw [← BitVec.toNat_inj, ← BitVec.toNat_inj, show (0x42 : Byte).toNat = 66 from rfl, show (0x4D : Byte).toNat = 77 from rfl]
  simp only [State.memRead, Nat.zero_add]
  omega

/-- What an error leaves, field by field (R153, R155). -/
theorem partlyParsed_read {s : State} {e : EngineError} (he : s.headerError = some e) :
    (s.partlyParsed e).fileHdr = (if s.streamLen < 14 then s.fileHdr else s.readFileHdr) ∧
      (s.partlyParsed e).infoHdr =
        (if s.streamLen < 54 ∨ s.memRead 0 2 ≠ 19778 then s.infoHdr else s.readInfoHdr) ∧
      ∀ i, (s.partlyParsed e).palEntry i =
        if e = .seekError ∨ e = .allocationError then s.loadedEntry s.streamEntry i else s.palEntry i := by
  have hne : (s.streamLen < 54 ∨ s.memRead 0 2 ≠ 19778) → ¬(e = .seekError ∨ e = .allocationError) := by
    intro h
    rw [State.headerError] at he
    by_cases h1 : s.streamLen < 14
    · rw [if_pos h1] at he; cases he; decide
    rw [if_neg h1] at he
    by_cases h2 : s.memRead 0 2 ≠ 19778
    · rw [if_pos h2] at he; cases he; decide
    rw [if_neg h2, if_pos (h.resolve_right h2)] at he
    cases he; decide
  unfold State.partlyParsed
  by_cases h1 : s.streamLen < 14
  · have h54 : s.streamLen < 54 := by omega
    simp only [if_pos h1, h54, true_or, if_true, if_neg (hne (.inl h54))]
    exact ⟨trivial, trivial, fun _ => trivial⟩
  by_cases h2 : s.memRead 0 2 ≠ 19778 ∨ s.streamLen < 54
  · have h2' := h2.symm
    simp only [if_neg h1, if_pos h2, if_pos h2', if_neg (hne h2')]
    exact ⟨rfl, rfl, fun _ => rfl⟩
  have h2' : ¬(s.streamLen < 54 ∨ s.memRead 0 2 ≠ 19778) := fun h => h2 h.symm
  simp only [if_neg h1, if_neg h2, if_neg h2']
  by_cases h3 : e = .seekError ∨ e = .allocationError
  · simp only [if_pos h3]
    obtain ⟨m, hm⟩ := withPalette_eq s
    refine ⟨by rw [hm]; rfl, by rw [hm]; rfl, fun i => ?_⟩
    rw [← parsed_palEntry]
    rfl
  · simp only [if_neg h3]
    exact ⟨rfl, rfl, fun _ => rfl⟩

/-- On a legal configuration the row stride and the dimensions of a stream that passes every check fit their registers
(R32, R114). -/
theorem stride_bounds {s : State} (hwf : s.params.wf = true) (h : s.headerError = none) :
    s.streamStride < 2 ^ 32 ∧ 0 < s.streamStride ∧ s.streamHeight < 2 ^ 32 ∧ s.streamWidth < 2 ^ 32 := by
  obtain ⟨-, h2, -, -, -, -, -, h8, h9, h10⟩ := headerError_none h
  have hp := (Config.Params.wf_iff _).mp hwf
  have hw : s.streamWidth ≤ s.streamWidth * s.streamHeight := Nat.le_mul_of_pos_right _ h9
  have hh : s.streamHeight ≤ s.streamWidth * s.streamHeight := Nat.le_mul_of_pos_left _ h8
  have hb : s.streamWidth * s.streamBpp ≤ s.streamWidth * 24 := Nat.mul_le_mul_left _ (by omega)
  have hb' : s.streamWidth * 1 ≤ s.streamWidth * s.streamBpp := Nat.mul_le_mul_left _ (by omega)
  unfold State.streamStride rowStride
  refine ⟨?_, ?_, ?_, ?_⟩ <;> omega

@[simp] theorem parsed_bpp (s : State) : s.parsed.bpp = s.streamBpp := by
  rw [State.bpp, parsed_infoHdr]; exact le16_toNat s 28

@[simp] theorem parsed_hdrWidth (s : State) : s.parsed.hdrWidth = s.streamWidth := by
  rw [State.hdrWidth, parsed_infoHdr]; exact le32_toNat s 18

@[simp] theorem parsed_hdrHeight (s : State) : s.parsed.hdrHeight = s.streamHeight := by
  rw [State.hdrHeight, parsed_infoHdr]; exact le32_toNat s 22

@[simp] theorem parsed_streamLen (s : State) : s.parsed.streamLen = s.streamLen := by
  rw [State.streamLen, parsed_eq]; rfl

theorem parsed_rowBase {s : State} (h : s.streamStride < 2 ^ 32) (r : Nat) :
    s.parsed.rowBase r = s.streamOffset + r * s.streamStride := by
  rw [State.rowBase, parsed_fileHdr, parsed_rowBytes, BitVec.toNat_ofNat, Nat.mod_eq_of_lt h]
  congr 1
  exact le32_toNat s 10

theorem parsed_field (s : State) (base p b : Nat) : s.parsed.field base p b = s.field base p b :=
  field_congr (by rw [parsed_eq]) (by rw [parsed_eq]) base p b

end Sys2Proof.Machine
end

