-- ==== Sys2Proof/Laws/Conv.lean ====
section
/-! SUPPORT. What a pass of CONV can do, said once, and its sums written out. -/

namespace Sys2Proof.Machine

/-! ### One pass -/

/-- A pass writes the other bank, RANGE and CUR_BANK only (R136, R141). -/
theorem convPass_frame (k : Kernel) (s : State) :
    convPass k s = { s with
      status := { s.status with range := (convPass k s).status.range, curBank := s.status.curBank.other }
      pix0 := (convPass k s).pix0
      pix1 := (convPass k s).pix1 } := by
  cases h : s.status.curBank <;> simp [convPass, h, Bank.other, State.setBank, Status.passed]

theorem convPass_curBank (k : Kernel) (s : State) : (convPass k s).status.curBank = s.status.curBank.other := rfl

theorem convPass_range (k : Kernel) (s : State) :
    (convPass k s).status.range =
      (s.status.range || passRange k (s.pixel s.status.curBank) s.gridWidth s.gridHeight) := rfl

theorem convPass_bank_dst (k : Kernel) (s : State) :
    (convPass k s).bank s.status.curBank.other =
      Memory.fillRows (s.bank s.status.curBank.other) s.gridWidth 0
        (passPixel k s.cfg.sharpClamp (s.pixel s.status.curBank) s.gridWidth s.gridHeight) s.gridHeight := by
  cases h : s.status.curBank <;> simp [convPass, h, Bank.other, State.setBank, State.bank]

theorem convPass_bank_src (k : Kernel) (s : State) :
    (convPass k s).bank s.status.curBank = s.bank s.status.curBank := by
  cases h : s.status.curBank <;> simp [convPass, h, Bank.other, State.setBank, State.bank]

@[simp] theorem convPass_gridWidth (k : Kernel) (s : State) : (convPass k s).gridWidth = s.gridWidth := by
  rw [convPass_frame]; rfl

@[simp] theorem convPass_gridHeight (k : Kernel) (s : State) : (convPass k s).gridHeight = s.gridHeight := by
  rw [convPass_frame]; rfl

@[simp] theorem convPass_clamp (k : Kernel) (s : State) : (convPass k s).cfg = s.cfg := by
  rw [convPass_frame]

@[simp] theorem convPass_resets (k : Kernel) (s : State) : (convPass k s).resets = s.resets := by
  rw [convPass_frame]

/-- The written bank, cell by cell (R136). -/
theorem convPass_pixel_dst (k : Kernel) (s : State) {x y : Nat} (hx : x < s.gridWidth) (hy : y < s.gridHeight) :
    (convPass k s).pixel s.status.curBank.other (y * s.gridWidth + x) =
      passPixel k s.cfg.sharpClamp (s.pixel s.status.curBank) s.gridWidth s.gridHeight y x := by
  rw [State.pixel, convPass_bank_dst, Memory.get?_fillRows_cell _ _ _ _ _ hx, if_pos ⟨Nat.zero_le _, by omega⟩]
  rfl

/-- A pass never changes the bank it reads (R136). -/
theorem convPass_pixel_src (k : Kernel) (s : State) (i : Nat) :
    (convPass k s).pixel s.status.curBank i = s.pixel s.status.curBank i := by
  rw [State.pixel, State.pixel, convPass_bank_src, convPass_resets]

/-- A pass changes no pixel beyond the grid (R141). -/
theorem convPass_pixel_beyond (k : Kernel) (s : State) (b : Bank) {i : Nat} (hw : 0 < s.gridWidth)
    (hi : s.gridWidth * s.gridHeight ≤ i) : (convPass k s).pixel b i = s.pixel b i := by
  by_cases hb : b = s.status.curBank
  · rw [hb, convPass_pixel_src]
  · have e : b = s.status.curBank.other := by
      cases b <;> cases h : s.status.curBank <;> simp_all [Bank.other]
    rw [e, State.pixel, convPass_bank_dst, Memory.get?_fillRows _ _ _ _ _ _ hw, if_neg, convPass_resets]
    · rfl
    · rw [Nat.mul_comm] at hi
      rw [Nat.zero_add]
      omega

/-! ### Many passes -/

theorem convPasses_zero (k : Kernel) (s : State) : convPasses k s 0 = s := rfl

theorem convPasses_succ (k : Kernel) (s : State) (n : Nat) : convPasses k s (n + 1) = convPass k (convPasses k s n) := rfl

/-- Passes write the banks, RANGE and CUR_BANK only (R144). -/
theorem convPasses_frame (k : Kernel) (s : State) (n : Nat) :
    convPasses k s n = { s with
      status := { s.status with
        range := (convPasses k s n).status.range
        curBank := (convPasses k s n).status.curBank }
      pix0 := (convPasses k s n).pix0
      pix1 := (convPasses k s n).pix1 } := by
  induction n with
  | zero => rfl
  | succ n ih =>
    rw [convPasses_succ, convPass_frame]
    rw [ih]

@[simp] theorem convPasses_gridWidth (k : Kernel) (s : State) (n : Nat) : (convPasses k s n).gridWidth = s.gridWidth := by
  rw [convPasses_frame]; rfl

@[simp] theorem convPasses_gridHeight (k : Kernel) (s : State) (n : Nat) :
    (convPasses k s n).gridHeight = s.gridHeight := by
  rw [convPasses_frame]; rfl

@[simp] theorem convPasses_cfg (k : Kernel) (s : State) (n : Nat) : (convPasses k s n).cfg = s.cfg := by
  rw [convPasses_frame]

@[simp] theorem convPasses_params (k : Kernel) (s : State) (n : Nat) : (convPasses k s n).params = s.params := by
  rw [convPasses_frame]

/-! ### The operands -/

/-- `s32(PARAM) = 0` exactly where PARAM is 0 (R131). -/
theorem convValue_eq_zero {s : State} : s.convValue = 0 ↔ s.param = 0 := by
  constructor
  · intro h
    apply BitVec.eq_of_toInt_eq
    exact h
  · intro h
    rw [State.convValue, h]
    rfl

/-! ### The sums -/

/-- The blur sum written out: the nine taps with weights 1 2 1, 2 4 2, 1 2 1 (R133, R138). -/
theorem convSum_blur (px : Nat → Pixel) (w x y : Nat) (c : Channel) :
    convSum .blur px w x y c =
      blurSum (fun v u => ((px (v * w + u)).chan c).toNat) y x := by
  simp [convSum, Kernel.weight, Kernel.matrix, blurSum, List.range_succ]
  ring

/-- The sharpen sum written out: the centre with weight 5, its four neighbours with -1, the corners with 0 (R134, R138). -/
theorem convSum_sharpen (px : Nat → Pixel) (w x y : Nat) (c : Channel) :
    convSum .sharpen px w x y c =
      sharpSum (fun v u => ((px (v * w + u)).chan c).toNat) y x := by
  simp [convSum, Kernel.weight, Kernel.matrix, sharpSum, List.range_succ]
  ring

end Sys2Proof.Machine
end

