-- ==== Sys2Proof/Laws/Unpack.lean ====
section
/-! SUPPORT. What the row loop of DECODE can do, said once. -/

namespace Sys2Proof.Machine

/-- j rows unpacked into bank 0, the first being r. -/
def State.rowsFrom (s : State) (r j : Nat) : State :=
  { s with pix0 := Memory.fillRows s.pix0 s.hdrWidth r s.rowPixel j }

/-- A row's pixels do not depend on the banks. -/
theorem rowPixel_congr {s t : State} (hi : t.infoHdr = s.infoHdr) (hf : t.fileHdr = s.fileHdr)
    (hr : t.rowBytes = s.rowBytes) (hp : t.pal = s.pal) (hm : t.inMem = s.inMem) (hn : t.resets = s.resets) :
    t.rowPixel = s.rowPixel := by
  funext r x
  have hb : t.rowBase r = s.rowBase r := by simp [State.rowBase, hf, hr]
  have hd : t.bpp = s.bpp := by simp [State.bpp, hi]
  unfold State.rowPixel State.mapField
  rw [hb, hd, field_congr hm hn, palEntry_congr hp hn, palEntry_congr hp hn]

@[simp] theorem rowsFrom_rowPixel (s : State) (r j : Nat) : (s.rowsFrom r j).rowPixel = s.rowPixel :=
  rowPixel_congr rfl rfl rfl rfl rfl rfl

theorem rowsFrom_zero (s : State) (r : Nat) : s.rowsFrom r 0 = s := rfl

theorem unpackRow_rowsFrom (s : State) (r j : Nat) : unpackRow (s.rowsFrom r j) (r + j) = s.rowsFrom r (j + 1) := by
  unfold unpackRow
  rw [rowsFrom_rowPixel]
  rfl

/-- The row loop unpacks the leading rows that fit, then ends; TRUNC is set exactly where it ended early (R116). -/
theorem unpackRows_eq (s : State) (r k : Nat) :
    ∃ j ≤ k, (∀ i < j, s.rowFits (r + i)) ∧ (j < k → ¬ s.rowFits (r + j)) ∧
      unpackRows s r k = finishRows (if j < k then (s.rowsFrom r j).setTrunc else s.rowsFrom r j) (r + j) := by
  have key : ∀ k d, ∃ j ≤ k, (∀ i < j, s.rowFits (r + (d + i))) ∧ (j < k → ¬ s.rowFits (r + (d + j))) ∧
      unpackRows (s.rowsFrom r d) (r + d) k =
        finishRows (if j < k then (s.rowsFrom r (d + j)).setTrunc else s.rowsFrom r (d + j)) (r + (d + j)) := by
    intro k
    induction k with
    | zero => intro d; exact ⟨0, le_rfl, by simp, by simp, rfl⟩
    | succ k ih =>
      intro d
      by_cases hf : s.rowFits (r + d)
      · obtain ⟨j, hj, h1, h2, h3⟩ := ih (d + 1)
        refine ⟨j + 1, by omega, ?_, ?_, ?_⟩
        · intro i hi
          rcases i with _ | i
          · exact hf
          · rw [show d + (i + 1) = d + 1 + i by omega]
            exact h1 i (by omega)
        · intro hlt
          rw [show d + (j + 1) = d + 1 + j by omega]
          exact h2 (by omega)
        · rw [unpackRows, if_pos (show (s.rowsFrom r d).rowFits (r + d) from hf), unpackRow_rowsFrom,
            Nat.add_assoc r d 1, h3, show d + (j + 1) = d + 1 + j by omega]
          simp only [Nat.add_lt_add_iff_right]
      · refine ⟨0, by omega, by simp, fun _ => hf, ?_⟩
        rw [unpackRows, if_neg (show ¬ (s.rowsFrom r d).rowFits (r + d) from hf), if_pos (by omega)]
        rfl
  obtain ⟨j, h1, h2, h3, h4⟩ := key k 0
  simp only [Nat.zero_add, rowsFrom_zero, Nat.add_zero] at h2 h3 h4
  exact ⟨j, h1, h2, h3, h4⟩

/-- Bank 0 after the row loop: unpacked rows, then black rows, and everything beyond the grid as before (R116, R125). -/
theorem finishRows_read (s : State) (trunc : Bool) (j : Nat) (hj : j ≤ s.hdrHeight) (hw : 0 < s.hdrWidth) (i : Nat) :
    Memory.get? (finishRows (if trunc then (s.rowsFrom 0 j).setTrunc else s.rowsFrom 0 j) j).pix0 i =
      if i < s.hdrHeight * s.hdrWidth then
        some (if i / s.hdrWidth < j then s.rowPixel (i / s.hdrWidth) (i % s.hdrWidth) else Pixel.black)
      else Memory.get? s.pix0 i := by
  have e : (finishRows (if trunc then (s.rowsFrom 0 j).setTrunc else s.rowsFrom 0 j) j).pix0 =
      Memory.fillRows (Memory.fillRows s.pix0 s.hdrWidth 0 s.rowPixel j) s.hdrWidth j (fun _ _ => Pixel.black)
        (s.hdrHeight - j) := by
    cases trunc <;> rfl
  have hle : j * s.hdrWidth ≤ s.hdrHeight * s.hdrWidth := Nat.mul_le_mul_right _ hj
  rw [e, Memory.get?_fillRows _ _ _ _ _ _ hw, Memory.get?_fillRows _ _ _ _ _ _ hw, Nat.add_sub_cancel' hj,
    Nat.zero_add, Nat.zero_mul]
  by_cases h1 : j * s.hdrWidth ≤ i ∧ i < s.hdrHeight * s.hdrWidth
  · rw [if_pos h1, if_pos h1.2, if_neg]
    rw [Nat.not_lt, Nat.le_div_iff_mul_le hw]
    exact h1.1
  · rw [if_neg h1]
    by_cases h2 : i < j * s.hdrWidth
    · rw [if_pos ⟨Nat.zero_le _, h2⟩, if_pos (by omega), if_pos ((Nat.div_lt_iff_lt_mul hw).mpr h2)]
    · rw [if_neg (fun h => h2 h.2), if_neg (by omega)]

/-- The end of DECODE differs from the committed state in STATUS.TRUNC, bank 0 and ROWS_DONE only. -/
theorem unpackRows_frame (s : State) (r k : Nat) :
    unpackRows s r k = { s with
      status := { s.status with trunc := (unpackRows s r k).status.trunc }
      pix0 := (unpackRows s r k).pix0
      rowsDone := (unpackRows s r k).rowsDone } := by
  obtain ⟨j, -, -, -, h⟩ := unpackRows_eq s r k
  rw [h]
  split <;> rfl

/-- The whole rows of a stream that passes every check: row r fits exactly where r is below the number of full rows (R116). -/
theorem rowFits_iff {s : State} (hwf : s.params.wf = true) (h : s.headerError = none) (r : Nat) :
    (commitGrid s.parsed).rowFits r ↔ r < (s.streamLen - s.streamOffset) / s.streamStride := by
  obtain ⟨-, -, -, -, -, -, h7, -, -, -⟩ := headerError_none h
  obtain ⟨g1, g2, -, -⟩ := stride_bounds hwf h
  have a1 : (commitGrid s.parsed).rowBase r = s.streamOffset + r * s.streamStride := parsed_rowBase g1 r
  have a2 : (commitGrid s.parsed).rowBytes.toNat = s.streamStride := by
    show s.parsed.rowBytes.toNat = _
    rw [parsed_rowBytes, BitVec.toNat_ofNat, Nat.mod_eq_of_lt g1]
  have a3 : (commitGrid s.parsed).streamLen = s.streamLen := parsed_streamLen s
  rw [State.rowFits, a1, a2, a3, Nat.lt_iff_add_one_le, Nat.le_div_iff_mul_le g2, Nat.add_mul, Nat.one_mul]
  omega

/-- Where the row loop of DECODE ends on a stream that passes every check: after the full rows (R116, R126). -/
theorem unpackRows_parsed {s : State} (hwf : s.params.wf = true) (h : s.headerError = none) :
    unpackRows (commitGrid s.parsed) 0 s.parsed.hdrHeight =
      finishRows (if s.fullRows < s.streamHeight then ((commitGrid s.parsed).rowsFrom 0 s.fullRows).setTrunc
        else (commitGrid s.parsed).rowsFrom 0 s.fullRows) s.fullRows := by
  obtain ⟨j, hj, f1, f2, e⟩ := unpackRows_eq (commitGrid s.parsed) 0 s.parsed.hdrHeight
  rw [parsed_hdrHeight] at hj f2 e ⊢
  have hfit := rowFits_iff hwf h
  have hjf : j = s.fullRows := by
    unfold State.fullRows
    obtain ⟨q, hq⟩ : ∃ q, q = (s.streamLen - s.streamOffset) / s.streamStride := ⟨_, rfl⟩
    simp only [← hq] at hfit ⊢
    have k1 : j ≤ q := by
      rcases Nat.eq_zero_or_pos j with h0 | h0
      · omega
      · have := (hfit _).mp (f1 (j - 1) (by omega))
        rw [Nat.zero_add] at this
        omega
    have k2 : j < s.streamHeight → q ≤ j := by
      intro h0
      have := (hfit _).not.mp (f2 h0)
      rw [Nat.zero_add] at this
      omega
    omega
  rw [e, hjf, Nat.zero_add]

end Sys2Proof.Machine
end

