-- ==== Sys2Proof/Laws/Step.lean ====
section
/-! SUPPORT. What a command and a step can do, said once. -/

namespace Sys2Proof.Machine

/-! ### The commands as equations -/

theorem exec_nop (s : State) : exec .nop s = .next s.finish := rfl

/-- PARSE on the raw bytes of the stream (R100, R155). -/
theorem exec_parse (s : State) :
    exec .parse s = .next (match s.headerError with
      | none => s.parsed.finish
      | some e => (s.partlyParsed e).raise e) := by
  show Host.Outcome.next _ = _
  rw [parseHeaders_eq]
  cases s.headerError <;> rfl

/-- DECODE on the raw bytes of the stream (R101, R155): on an error it is PARSE. -/
theorem exec_decode (s : State) :
    exec .decode s = .next (match s.headerError with
      | none => (unpackRows (commitGrid s.parsed) 0 s.parsed.hdrHeight).finish
      | some e => (s.partlyParsed e).raise e) := by
  show Host.Outcome.next _ = _
  rw [parseHeaders_eq]
  cases s.headerError <;> rfl

theorem exec_parse_none {s : State} (h : s.headerError = none) : exec .parse s = .next s.parsed.finish := by
  rw [exec_parse, h]

theorem exec_parse_some {s : State} {e : EngineError} (h : s.headerError = some e) :
    exec .parse s = .next ((s.partlyParsed e).raise e) := by
  rw [exec_parse, h]

theorem exec_decode_none {s : State} (h : s.headerError = none) :
    exec .decode s = .next (unpackRows (commitGrid s.parsed) 0 s.parsed.hdrHeight).finish := by
  rw [exec_decode, h]

theorem exec_decode_some {s : State} {e : EngineError} (h : s.headerError = some e) :
    exec .decode s = .next ((s.partlyParsed e).raise e) := by
  rw [exec_decode, h]

/-- The shadows after PARSE or DECODE, whatever the outcome: each group is written where its length check, and the signature
check before the second, passed (R102 to R104, R153). -/
theorem exec_headers {i : Instr} (hi : i = .parse ∨ i = .decode) (s : State) :
    ∃ t, exec i s = .next t ∧ t.fileHdr = (if s.streamLen < 14 then s.fileHdr else s.readFileHdr) ∧
      t.infoHdr = (if s.streamLen < 54 ∨ s.memRead 0 2 ≠ 19778 then s.infoHdr else s.readInfoHdr) := by
  cases he : s.headerError with
  | none =>
    have h54 := (headerError_none he).1
    have hs := headerError_none_signature he
    rw [if_neg (by omega), if_neg (by omega)]
    rcases hi with rfl | rfl
    · exact ⟨_, exec_parse_none he, parsed_fileHdr s, parsed_infoHdr s⟩
    · refine ⟨_, exec_decode_none he, ?_, ?_⟩
      · rw [unpackRows_frame]; exact parsed_fileHdr s
      · rw [unpackRows_frame]; exact parsed_infoHdr s
  | some e =>
    obtain ⟨h1, h2, -⟩ := partlyParsed_read he
    rcases hi with rfl | rfl
    · exact ⟨_, exec_parse_some he, h1, h2⟩
    · exact ⟨_, exec_decode_some he, h1, h2⟩

/-- CONV (R130). -/
theorem exec_conv (s : State) :
    exec .conv s = .next (
      if s.convValue = 0 then s.raise .badParameter
      else if badDims s s.gridWidth s.gridHeight then s.raise .invalidGrid
      else (convPasses (kernelOf s.convValue) s s.convCount).finish) := by
  show Host.Outcome.next _ = _
  unfold checkParam
  by_cases h1 : s.convValue = 0
  · rw [failIf_pos h1, if_pos h1]; rfl
  · rw [failIf_neg h1, if_neg h1, Stage.andThen_go, checkGrid]
    by_cases h2 : badDims s s.gridWidth s.gridHeight
    · rw [failIf_pos h2, if_pos h2]; rfl
    · rw [failIf_neg h2, if_neg h2]; rfl

/-- What a command may write, once: SEQ, STATUS, the grid registers, the shadows and the engine's memories, never IN, IN_LEN,
CFG, PARAM, the parameters or the host's own view (R45, R92, R153). -/
theorem exec_frame {i : Instr} {s t : State} (h : exec i s = .next t) :
    t = { s with
      seq := .idle
      status := { t.status with done := true, lost := s.status.lost }
      gridW := t.gridW
      gridH := t.gridH
      rowBytes := t.rowBytes
      rowsDone := t.rowsDone
      fileHdr := t.fileHdr
      infoHdr := t.infoHdr
      pal := t.pal
      pix0 := t.pix0
      pix1 := t.pix1 } := by
  cases i with
  | nop => cases h; rfl
  | parse =>
    cases he : s.headerError with
    | none =>
      rw [exec_parse_none he] at h
      cases h
      rw [parsed_eq]; rfl
    | some e =>
      rw [exec_parse_some he] at h
      cases h
      rw [partlyParsed_eq]; rfl
  | decode =>
    cases he : s.headerError with
    | none =>
      rw [exec_decode_none he] at h
      cases h
      rw [unpackRows_frame, parsed_eq]; rfl
    | some e =>
      rw [exec_decode_some he] at h
      cases h
      rw [partlyParsed_eq]; rfl
  | conv =>
    rw [exec_conv] at h
    split_ifs at h <;> cases h
    · rfl
    · rfl
    · rw [convPasses_frame]; rfl

/-- A command never stops the machine. -/
theorem exec_next (i : Instr) (s : State) : ∃ t, exec i s = .next t := by
  cases i <;> exact ⟨_, rfl⟩

/-! ### Runs -/

theorem run_zero (s : State) : Sys2Proof.core.run 0 s = .next s := rfl

/-- A run of a step and more. -/
theorem run_succ {s t : State} (h : step s = .next t) (k : Nat) :
    Sys2Proof.core.run (k + 1) s = Sys2Proof.core.run k t := by
  simp only [Host.Core.run]
  rw [show Sys2Proof.core.step s = .next t from h]

/-! ### One step -/

/-- On a legal configuration a step is a turn; an illegal one is refused (R9). -/
theorem step_of_wf {s : State} (h : s.params.wf = true) : step s = runTurn s := if_pos h

theorem step_of_not_wf {s : State} (h : s.params.wf = false) : step s = .refused .badConfiguration := by
  simp [step, checkedStep, h]

theorem step_nil {s : State} (h : s.params.wf = true) (hp : s.pending = []) : step s = engineTurn s := by
  rw [step_of_wf h, runTurn, hp]; rfl

theorem step_cons {s : State} {t : Turn} {rest : List Turn} (h : s.params.wf = true) (hp : s.pending = t :: rest) :
    step s = takeTurn t { s with pending := rest } := by
  rw [step_of_wf h, runTurn, hp]

/-- The engine's turn never stops the machine. -/
theorem engineTurn_next (s : State) : ∃ t, engineTurn s = .next t := by
  unfold engineTurn
  split
  · exact ⟨_, rfl⟩
  · unfold runWord
    split
    · exact exec_next _ _
    · exact ⟨_, rfl⟩

/-- What the engine's turn is: nothing when IDLE, the latched command or the illegal command when BUSY (R92, R93). -/
theorem engineTurn_cases {s t : State} (h : engineTurn s = .next t) :
    (s.seq = .idle ∧ t = s) ∨ (∃ w i, s.seq = .busy w ∧ decodeWord w = .ok i ∧ exec i s = .next t) ∨
      (∃ w e, s.seq = .busy w ∧ decodeWord w = .error e ∧ t = s.raise .illegalCommand) := by
  unfold engineTurn at h
  split at h
  · next hs =>
    cases h
    exact .inl ⟨hs, rfl⟩
  · next w hs =>
    unfold runWord at h
    split at h
    · next i hd => exact .inr (.inl ⟨w, i, hs, hd, h⟩)
    · next e hd =>
      cases h
      exact .inr (.inr ⟨w, e, hs, hd, rfl⟩)

/-- What the engine's turn may write, once (R45, R92). -/
theorem engineTurn_frame {s t : State} (h : engineTurn s = .next t) :
    (s.seq = .idle ∧ t = s) ∨ (s.seq ≠ .idle ∧
      t = { s with
        seq := .idle
        status := { t.status with done := true, lost := s.status.lost }
        gridW := t.gridW
        gridH := t.gridH
        rowBytes := t.rowBytes
        rowsDone := t.rowsDone
        fileHdr := t.fileHdr
        infoHdr := t.infoHdr
        pal := t.pal
        pix0 := t.pix0
        pix1 := t.pix1 }) := by
  rcases engineTurn_cases h with h | ⟨w, i, hs, -, h⟩ | ⟨w, e, hs, -, h⟩
  · exact .inl h
  · exact .inr ⟨by rw [hs]; exact Seq.noConfusion, exec_frame h⟩
  · exact .inr ⟨by rw [hs]; exact Seq.noConfusion, by rw [h]; rfl⟩

/-- What a step is: the engine's turn where nothing is pending, else the first pending turn (R7, R8, R170). -/
theorem step_cases {s t : State} (h : step s = .next t) :
    s.params.wf = true ∧
      ((s.pending = [] ∧ engineTurn s = .next t) ∨
        (∃ rest, s.pending = .engine :: rest ∧ engineTurn { s with pending := rest } = .next t) ∨
        (∃ rest, s.pending = .reset :: rest ∧ t = ({ s with pending := rest } : State).takeReset) ∨
        (∃ rest a, s.pending = .host a :: rest ∧ t = ({ s with pending := rest } : State).hostAccess a)) := by
  cases hw : s.params.wf with
  | false => rw [step_of_not_wf hw] at h; cases h
  | true =>
    refine ⟨rfl, ?_⟩
    cases hp : s.pending with
    | nil => exact .inl ⟨rfl, by rwa [step_nil hw hp] at h⟩
    | cons u rest =>
      rw [step_cons hw hp] at h
      cases u with
      | engine => exact .inr (.inl ⟨rest, rfl, h⟩)
      | reset =>
        cases h
        exact .inr (.inr (.inl ⟨rest, rfl, rfl⟩))
      | host a =>
        cases h
        exact .inr (.inr (.inr ⟨rest, a, rfl, rfl⟩))

end Sys2Proof.Machine
end

