-- ==== Sys2Proof/Laws/Words.lean ====
section
/-! SUPPORT. The bits of the STATUS and CFG words and the bytes of a pixel's word (R12, R24, R25). -/

namespace Sys2Proof.Machine

/-- Every bit of STATUS 7:0 (R24). -/
theorem statusFlags_getLsbD (q : Seq) (st : Status) (i : Nat) :
    (statusFlags q st).getLsbD i =
      [q.isBusy, st.done, st.err, st.trunc, st.range, st.curBank.bit, st.lost, false].getD i false :=
  BitVec.getLsbD_ofBoolListLE

/-- Every bit of a STATUS word (R24). -/
theorem statusWord_getLsbD (q : Seq) (st : Status) (i : Nat) :
    (statusWord q st).getLsbD i =
      if i < 8 then [q.isBusy, st.done, st.err, st.trunc, st.range, st.curBank.bit, st.lost, false].getD i false
      else if i < 16 then st.errCode.getLsbD (i - 8) else false := by
  have key : BitVec.getLsbD (w := 16 + 8 + 8) (0#16 ++ st.errCode ++ statusFlags q st) i =
      if i < 8 then (statusFlags q st).getLsbD i else if i < 16 then st.errCode.getLsbD (i - 8) else false := by
    simp only [BitVec.getLsbD_append, BitVec.getLsbD_zero]
    split_ifs <;> first | rfl | omega
  rw [← statusFlags_getLsbD]
  exact key

/-- STATUS is 0 where every flag is (R43). -/
theorem statusWord_reset : statusWord .idle Status.reset = 0 := by decide

/-- Every bit of a CFG word (R25). -/
theorem cfgWord_getLsbD (c : Cfg) (i : Nat) :
    (cfgWord c).getLsbD i = if i < 2 then [c.irqEn, c.sharpClamp].getD i false else false := by
  have key : BitVec.getLsbD (w := 30 + 2) (0#30 ++ cfgFlags c) i = if i < 2 then (cfgFlags c).getLsbD i else false := by
    simp only [BitVec.getLsbD_append, BitVec.getLsbD_zero]
  rw [show (cfgFlags c).getLsbD i = [c.irqEn, c.sharpClamp].getD i false from BitVec.getLsbD_ofBoolListLE] at key
  exact key

/-- The CFG word of a written CFG keeps the two fields and clears the reserved bits (R25, R34). -/
theorem cfgWord_cfgOfWord (w : Word) : cfgWord (cfgOfWord w) = w &&& 3 := by
  apply BitVec.eq_of_getLsbD_eq
  intro i hi
  rw [cfgWord_getLsbD, BitVec.getLsbD_and]
  rcases i with _ | _ | i
  · simp [cfgOfWord]
  · simp [cfgOfWord]
  · have h3 : (3 : Word).getLsbD (i + 2) = false := by
      have : ∀ j < 32, 2 ≤ j → (3 : Word).getLsbD j = false := by decide
      exact this (i + 2) hi (by omega)
    rw [h3, Bool.and_false, if_neg (by omega)]

/-- A pixel's word as a number (R12). -/
theorem pixelWord_toNat (p : Pixel) : (pixelWord p).toNat = p.r.toNat * 65536 + p.g.toNat * 256 + p.b.toNat := by
  have key : BitVec.toNat (w := 8 + 8 + 8 + 8) (0#8 ++ p.r ++ p.g ++ p.b) =
      p.r.toNat * 65536 + p.g.toNat * 256 + p.b.toNat := by
    have hr := p.r.isLt
    have hg := p.g.isLt
    have hb := p.b.isLt
    rw [BitVec.toNat_append, BitVec.toNat_append, BitVec.toNat_append]
    rw [← Nat.shiftLeft_add_eq_or_of_lt hb, ← Nat.shiftLeft_add_eq_or_of_lt hg, ← Nat.shiftLeft_add_eq_or_of_lt hr]
    simp only [Nat.shiftLeft_eq, BitVec.toNat_ofNat]
    omega
  exact key

/-- The bytes of a pixel's word (R12). -/
theorem pixelWord_bytes (p : Pixel) :
    (pixelWord p).extractLsb' 24 8 = 0 ∧ (pixelWord p).extractLsb' 16 8 = p.r ∧
      (pixelWord p).extractLsb' 8 8 = p.g ∧ (pixelWord p).extractLsb' 0 8 = p.b := by
  have hr := p.r.isLt
  have hg := p.g.isLt
  have hb := p.b.isLt
  have h0 : (0 : Byte).toNat = 0 := rfl
  refine ⟨?_, ?_, ?_, ?_⟩ <;> apply BitVec.eq_of_toNat_eq <;>
    simp only [BitVec.extractLsb'_toNat, pixelWord_toNat, Nat.shiftRight_eq_div_pow, h0] <;> omega

/-- A pixel written and read back on the bus is the pixel (R53). -/
theorem wordPixel_pixelWord (p : Pixel) : wordPixel (pixelWord p) = p := by
  obtain ⟨-, h1, h2, h3⟩ := pixelWord_bytes p
  rw [wordPixel, h1, h2, h3]

/-- BUSY is bit 0 of STATUS and reads 1 exactly when SEQ is BUSY (R21, R24). -/
theorem statusWord_busy (q : Seq) (st : Status) : (statusWord q st).getLsbD 0 = q.isBusy := by
  rw [statusWord_getLsbD]; rfl

end Sys2Proof.Machine
end

