-- ==== Sys2Proof/Laws/Bus.lean ====
section
/-! SUPPORT. What a host access can do, said once. -/

namespace Sys2Proof.Machine

/-- A host read is an ERROR, an any-value read while BUSY, or a plain read, which may synchronise (R51, R177). -/
theorem hostRead_cases (s : State) (z : Size) (a : Word) :
    (busError z a = true ∧ s.hostRead z a = s.respond (.read .error 0)) ∨
      (busError z a = false ∧ s.hostBusy = true ∧ (decodeAddr a).readDefined = false ∧
        s.hostRead z a =
          ({ s with draws := s.draws + 1 } : State).respond (.read .okay (laneMask z (Config.busyData s.draws)))) ∨
      (busError z a = false ∧ (s.hostBusy = false ∨ (decodeAddr a).readDefined = true) ∧
        s.hostRead z a = (s.synced (decodeAddr a)).respond (.read .okay (s.readTarget (decodeAddr a) z))) := by
  unfold State.hostRead
  cases busError z a <;> cases s.hostBusy <;> cases (decodeAddr a).readDefined <;> simp

/-- A host write is an ERROR, a host fault, or takes effect (R51, R177, R178). -/
theorem hostWrite_cases (s : State) (z : Size) (a v : Word) :
    (busError z a = true ∧ s.hostWrite z a v = s.respond (.write .error)) ∨
      (busError z a = false ∧ s.hostBusy = true ∧ (decodeAddr a).writeDefined = false ∧
        s.hostWrite z a v = s.takeHostFault) ∨
      (busError z a = false ∧ (s.hostBusy = false ∨ (decodeAddr a).writeDefined = true) ∧
        s.hostWrite z a v = (s.writeTarget (decodeAddr a) z v).respond (.write .okay)) := by
  unfold State.hostWrite
  cases busError z a <;> cases s.hostBusy <;> cases (decodeAddr a).writeDefined <;> simp

/-- A read changes the synchronisation mark only, and only from true to false. -/
theorem synced_cases (s : State) (t : Target) :
    s.synced t = s ∨ (t = .register 0x008 ∧ s.seq = .idle ∧ s.synced t = { s with awaitSync := false }) := by
  unfold State.synced
  split
  · next h => exact .inr ⟨h.1, h.2, rfl⟩
  · exact .inl rfl

/-- A CMD write is an issue when IDLE, and sets LOST while BUSY (R90, R98). -/
theorem writeCmd_cases (s : State) (v : Word) :
    (s.seq = .idle ∧ s.writeCmd v = s.issue v) ∨
      (∃ w, s.seq = .busy w ∧ s.writeCmd v = { s with status := { s.status with lost := true } }) := by
  unfold State.writeCmd
  split
  · next h => exact .inl ⟨h, rfl⟩
  · next w h => exact .inr ⟨w, h, rfl⟩

/-- A write of n bytes to IN changes IN only. -/
theorem writeInput_frame (s : State) (off : Nat) (v : Word) (n : Nat) :
    s.writeInput off v n = { s with inMem := (s.writeInput off v n).inMem } := by
  induction n with
  | zero => rfl
  | succ n ih =>
    rw [State.writeInput]
    split
    · rw [ih]
    · exact ih

/-- What every byte of IN reads as after a write to IN: the written lanes below the capacity, the others as before (R52,
R56, R59). -/
theorem writeInput_get? (s : State) (off : Nat) (v : Word) (n a : Nat) :
    Memory.get? (s.writeInput off v n).inMem a =
      if off ≤ a ∧ a < off + n ∧ a < s.params.inCap then some (v.extractLsb' (8 * (a - off)) 8)
      else Memory.get? s.inMem a := by
  induction n with
  | zero => rw [if_neg (by omega)]; rfl
  | succ n ih =>
    rw [State.writeInput]
    by_cases hc : off + n < s.params.inCap
    · simp only [hc, if_true]
      rw [Memory.get?_set, ih]
      by_cases ha : a = off + n
      · subst ha
        rw [if_pos rfl, if_pos ⟨by omega, by omega, hc⟩, Nat.add_sub_cancel_left]
      · rw [if_neg ha]
        by_cases h : off ≤ a ∧ a < off + n ∧ a < s.params.inCap
        · rw [if_pos h, if_pos (by omega)]
        · rw [if_neg h, if_neg (by omega)]
    · simp only [hc, if_false]
      rw [ih]
      by_cases h : off ≤ a ∧ a < off + n ∧ a < s.params.inCap
      · rw [if_pos h, if_pos (by omega)]
      · rw [if_neg h, if_neg (by omega)]

/-- A register write can change SEQ, STATUS, CFG, PARAM, IN_LEN, GRID_W, GRID_H and the synchronisation mark only (R35). -/
theorem writeReg_frame (s : State) (r : Reg) (v : Word) :
    s.writeReg r v = { s with
      seq := (s.writeReg r v).seq
      status := (s.writeReg r v).status
      cfg := (s.writeReg r v).cfg
      param := (s.writeReg r v).param
      inLen := (s.writeReg r v).inLen
      gridW := (s.writeReg r v).gridW
      gridH := (s.writeReg r v).gridH
      awaitSync := (s.writeReg r v).awaitSync } := by
  cases r
  case cmd =>
    show s.writeCmd v = _
    rcases writeCmd_cases s v with ⟨-, h⟩ | ⟨w, -, h⟩
    · rw [show s.writeReg .cmd v = s.writeCmd v from rfl, h]; rfl
    · rw [show s.writeReg .cmd v = s.writeCmd v from rfl, h]
  all_goals rfl

/-! ### Accesses by the host's view of the engine -/

theorem hostBusy_of_idle {s : State} (h : s.seq = .idle) (ha : s.awaitSync = false) : s.hostBusy = false := by
  rw [State.hostBusy, h, ha]; rfl

theorem hostBusy_of_busy {s : State} (h : s.seq ≠ .idle ∨ s.awaitSync = true) : s.hostBusy = true := by
  rw [State.hostBusy]
  rcases h with h | h
  · cases hs : s.seq with
    | idle => exact absurd hs h
    | busy w => rfl
  · rw [h, Bool.or_true]

/-- A bus error has no effect (R51, R56). -/
theorem hostRead_of_error {z : Size} {a : Word} (s : State) (h : busError z a = true) :
    s.hostRead z a = s.respond (.read .error 0) := if_pos h

theorem hostWrite_of_error {z : Size} {a : Word} (s : State) (v : Word) (h : busError z a = true) :
    s.hostWrite z a v = s.respond (.write .error) := if_pos h

/-- A read that is defined: the engine is IDLE and the host synchronised, or R177 gives its value. -/
theorem hostRead_of_defined {s : State} {z : Size} {a : Word} (h : busError z a = false)
    (hd : s.hostBusy = false ∨ (decodeAddr a).readDefined = true) :
    s.hostRead z a = (s.synced (decodeAddr a)).respond (.read .okay (s.readTarget (decodeAddr a) z)) := by
  rcases hostRead_cases s z a with ⟨h1, -⟩ | ⟨-, h1, h2, -⟩ | ⟨-, -, h1⟩
  · rw [h] at h1; cases h1
  · rw [h1, h2] at hd; simp at hd
  · exact h1

/-- A write that is defined: the engine is IDLE and the host synchronised, or R177 gives its effect. -/
theorem hostWrite_of_defined {s : State} {z : Size} {a : Word} (v : Word) (h : busError z a = false)
    (hd : s.hostBusy = false ∨ (decodeAddr a).writeDefined = true) :
    s.hostWrite z a v = (s.writeTarget (decodeAddr a) z v).respond (.write .okay) := by
  rcases hostWrite_cases s z a v with ⟨h1, -⟩ | ⟨-, h1, h2, -⟩ | ⟨-, -, h1⟩
  · rw [h] at h1; cases h1
  · rw [h1, h2] at hd; simp at hd
  · exact h1

/-- A read of STATUS answers in every state, and synchronises where BUSY = 0 (R63, R177). -/
theorem hostRead_status (s : State) :
    s.hostRead .four 0x00000008 =
      { s with
        awaitSync := (if s.seq = .idle then false else s.awaitSync)
        response := some (.read .okay (statusWord s.seq s.status)) } := by
  rw [hostRead_of_defined (by decide) (.inr (by decide))]
  show (s.synced (.register 8)).respond _ = _
  unfold State.synced
  by_cases h : s.seq = .idle
  · rw [if_pos ⟨rfl, h⟩, if_pos h]; rfl
  · rw [if_neg (fun g => h g.2), if_neg h]; rfl

/-- A write of STATUS acts in every state (R37, R177). -/
theorem hostWrite_status (s : State) (v : Word) :
    s.hostWrite .four 0x00000008 v =
      ({ s with status := s.status.clear v } : State).respond (.write .okay) := by
  rw [hostWrite_of_defined _ (by decide) (.inr (by decide))]; rfl

/-- A write of CMD acts in every state (R90, R98). -/
theorem hostWrite_cmd (s : State) (v : Word) :
    s.hostWrite .four 0x00000004 v = (s.writeCmd v).respond (.write .okay) := by
  rw [hostWrite_of_defined _ (by decide) (.inr (by decide))]; rfl

/-- A write of CFG acts where the host need not treat the engine as BUSY (R25, R177). -/
theorem hostWrite_cfg {s : State} (h : s.hostBusy = false) (v : Word) :
    s.hostWrite .four 0x0000000C v = ({ s with cfg := cfgOfWord v } : State).respond (.write .okay) := by
  rw [hostWrite_of_defined _ (by decide) (.inl h)]; rfl

/-- A step whose first pending turn is a host access (R51). -/
theorem step_read {s : State} {z : Size} {a : Word} {rest : List Turn} (h : s.params.wf = true)
    (hp : s.pending = .host (.read z a) :: rest) : step s = .next (({ s with pending := rest } : State).hostRead z a) :=
  step_cons h hp

theorem step_write {s : State} {z : Size} {a v : Word} {rest : List Turn} (h : s.params.wf = true)
    (hp : s.pending = .host (.write z a v) :: rest) :
    step s = .next (({ s with pending := rest } : State).hostWrite z a v) := step_cons h hp

/-! ### The address map, slot by slot (R55) -/

theorem decodeAddr_register {a : Word} (h : a.toNat < 0x400) : decodeAddr a = .register a.toNat := if_pos h

theorem decodeAddr_palette {a : Word} (h : 0x400 ≤ a.toNat) (h2 : a.toNat < 0x800) :
    decodeAddr a = .palette ((a.toNat - 0x400) / 4) := by
  rw [decodeAddr, if_neg (by omega), if_pos h2]

theorem decodeAddr_input {a : Word} (h : 0x10000000 ≤ a.toNat) (h2 : a.toNat < 0x20000000) :
    decodeAddr a = .input (a.toNat - 0x10000000) := by
  rw [decodeAddr, if_neg (by omega), if_neg (by omega), if_neg (by omega), if_pos h2]

theorem decodeAddr_bank0 {a : Word} (h : 0x20000000 ≤ a.toNat) (h2 : a.toNat < 0x30000000) :
    decodeAddr a = .pixel .bank0 ((a.toNat - 0x20000000) / 4) := by
  rw [decodeAddr, if_neg (by omega), if_neg (by omega), if_neg (by omega), if_neg (by omega), if_pos h2]

theorem decodeAddr_bank1 {a : Word} (h : 0x30000000 ≤ a.toNat) (h2 : a.toNat < 0x40000000) :
    decodeAddr a = .pixel .bank1 ((a.toNat - 0x30000000) / 4) := by
  rw [decodeAddr, if_neg (by omega), if_neg (by omega), if_neg (by omega), if_neg (by omega), if_neg (by omega),
    if_pos h2]

theorem decodeAddr_unmapped {a : Word} (h : (0x800 ≤ a.toNat ∧ a.toNat < 0x10000000) ∨ 0x40000000 ≤ a.toNat) :
    decodeAddr a = .unmapped := by
  unfold decodeAddr
  split_ifs <;> first | rfl | omega

/-- Only an aligned access of a size its target takes is no bus error (R51, R56). -/
theorem busError_eq_false_iff (z : Size) (a : Word) :
    busError z a = false ↔ a.toNat % z.bytes = 0 ∧ (decodeAddr a).takes z = true := by
  simp [busError]

/-- An aligned offset of the register window that no row of the table names reads as reserved (R34). -/
theorem regAt_eq_none {off : Nat} (h : (0x02C < off ∧ off < 0x040) ∨ 0x078 < off) : regAt off = none := by
  simp only [regAt, regTable, Memory.get?]
  repeat rw [if_neg (by omega)]

/-- A register stands at an offset only by a row of the table. -/
theorem regAt_mem {off : Nat} {r : Reg} (h : regAt off = some r) : (off, r) ∈ regTable := Memory.mem_of_get? h

/-- The registers a write reaches are CMD, STATUS, CFG, PARAM, IN_LEN, GRID_W and GRID_H, at offsets 4 to 0x1C (R35). -/
theorem writeReg_readOnly {off : Nat} {r : Reg} (h : regAt off = some r) (ho : off < 0x004 ∨ 0x01C < off) (s : State)
    (v : Word) : s.writeReg r v = s := by
  have key : ∀ p ∈ regTable, (p.1 < 0x004 ∨ 0x01C < p.1) →
      p.2 ≠ .cmd ∧ p.2 ≠ .status ∧ p.2 ≠ .cfg ∧ p.2 ≠ .param ∧ p.2 ≠ .inLen ∧ p.2 ≠ .gridW ∧ p.2 ≠ .gridH := by decide
  have := key _ (regAt_mem h) ho
  cases r <;> first | rfl | simp at this

/-- A write to the register window leaves PAL, the banks, IN and the engine's other registers alone; the palette's and an
unmapped address's target ignores it; a write to IN changes IN only; a write to a bank changes that bank only. -/
theorem writeTarget_cases (s : State) (t : Target) (z : Size) (v : Word) :
    s.writeTarget t z v = s ∨
      (∃ off r, t = .register off ∧ (off, r) ∈ regTable ∧ s.writeTarget t z v = s.writeReg r v) ∨
      (∃ off, t = .input off ∧ s.writeTarget t z v = s.writeInput off v z.bytes) ∨
      (∃ b i, t = .pixel b i ∧ i < s.params.gridCap ∧
        s.writeTarget t z v = s.setBank b (Memory.set (s.bank b) i (wordPixel v))) := by
  cases t with
  | register off =>
    unfold State.writeTarget
    cases h : regAt off with
    | none => simp only [h]; exact .inl trivial
    | some r => simp only [h]; exact .inr (.inl ⟨off, r, rfl, regAt_mem h, rfl⟩)
  | palette i => exact .inl rfl
  | input off => exact .inr (.inr (.inl ⟨off, rfl, rfl⟩))
  | pixel b i =>
    unfold State.writeTarget
    by_cases h : i < s.params.gridCap
    · simp only [h, if_true]; exact .inr (.inr (.inr ⟨b, i, rfl, h, rfl⟩))
    · simp only [h, if_false]; exact .inl trivial
  | unmapped => exact .inl rfl

/-- The address of a register's target is its offset. -/
theorem decodeAddr_eq_register {a : Word} {off : Nat} (h : decodeAddr a = .register off) : a.toNat = off := by
  unfold decodeAddr at h
  split_ifs at h
  simp_all

/-- The addresses that lead to IN. -/
theorem decodeAddr_eq_input {a : Word} {off : Nat} (h : decodeAddr a = .input off) :
    0x10000000 ≤ a.toNat ∧ a.toNat < 0x20000000 := by
  rw [decodeAddr] at h
  split_ifs at h
  exact ⟨by omega, by omega⟩

/-- What a host write can do, once (R35, R37, R52, R53, R90, R98, R177, R178). -/
theorem hostWrite_effect (s : State) (z : Size) (a v : Word) :
    s.hostWrite z a v = s.respond (.write .error) ∨
      (s.hostBusy = true ∧ a ≠ 0x00000004 ∧ a ≠ 0x00000008 ∧ s.hostWrite z a v = s.takeHostFault) ∨
      (z = .four ∧ a = 0x00000004 ∧ s.hostWrite z a v = (s.writeCmd v).respond (.write .okay)) ∨
      (z = .four ∧ a = 0x00000008 ∧
        s.hostWrite z a v = ({ s with status := s.status.clear v } : State).respond (.write .okay)) ∨
      (z = .four ∧ a = 0x0000000C ∧ s.hostBusy = false ∧
        s.hostWrite z a v = ({ s with cfg := cfgOfWord v } : State).respond (.write .okay)) ∨
      (s.hostBusy = false ∧ ∃ t : State, s.hostWrite z a v = t.respond (.write .okay) ∧
        t = { s with
          param := t.param
          inLen := t.inLen
          gridW := t.gridW
          gridH := t.gridH
          pix0 := t.pix0
          pix1 := t.pix1
          inMem := t.inMem } ∧
        (t.inMem = s.inMem ∨ ∃ off, decodeAddr a = .input off ∧ t.inMem = (s.writeInput off v z.bytes).inMem) ∧
        (t.pix0 = s.pix0 ∨ ∃ i < s.params.gridCap, t.pix0 = Memory.set s.pix0 i (wordPixel v)) ∧
        (t.pix1 = s.pix1 ∨ ∃ i < s.params.gridCap, t.pix1 = Memory.set s.pix1 i (wordPixel v)) ∧
        (t.inLen = s.inLen ∨ t.inLen = BitVec.ofNat 32 (min v.toNat s.params.inCap))) := by
  rcases hostWrite_cases s z a v with ⟨-, h⟩ | ⟨-, hb, hd, h⟩ | ⟨he, hb, h⟩
  · exact .inl h
  · refine .inr (.inl ⟨hb, ?_, ?_, h⟩)
    · rintro rfl; exact absurd hd (by decide)
    · rintro rfl; exact absurd hd (by decide)
  · rw [busError_eq_false_iff] at he
    have four : ∀ off, decodeAddr a = .register off → z = .four := fun off h => by
      have := he.2
      rw [h] at this
      exact of_decide_eq_true this
    rcases writeTarget_cases s (decodeAddr a) z v with e | ⟨off, r, ht, hm, e⟩ | ⟨off, ht, e⟩ | ⟨b, i, ht, hi, e⟩
    · rcases hb with hb | hb
      · exact .inr (.inr (.inr (.inr (.inr ⟨hb, s, by rw [h, e], rfl, .inl rfl, .inl rfl, .inl rfl, .inl rfl⟩))))
      · cases ht : decodeAddr a with
        | register off =>
          have ha := decodeAddr_eq_register ht
          rw [ht] at hb
          have hr : regAt off = some .status ∨ regAt off = some .cmd := of_decide_eq_true hb
          have key : ∀ p ∈ regTable, (p.2 = .status → p.1 = 8) ∧ (p.2 = .cmd → p.1 = 4) := by decide
          rcases hr with hr | hr
          · have ho := (key _ (regAt_mem hr)).1 rfl
            have haa : a = 0x00000008 := BitVec.eq_of_toNat_eq (by rw [ha]; exact ho)
            have hz := four off ht
            subst haa hz
            exact .inr (.inr (.inr (.inl ⟨rfl, rfl, hostWrite_status s v⟩)))
          · have ho := (key _ (regAt_mem hr)).2 rfl
            have haa : a = 0x00000004 := BitVec.eq_of_toNat_eq (by rw [ha]; exact ho)
            have hz := four off ht
            subst haa hz
            exact .inr (.inr (.inl ⟨rfl, rfl, hostWrite_cmd s v⟩))
        | palette i => rw [ht] at hb; cases hb
        | input i => rw [ht] at hb; cases hb
        | pixel b i => rw [ht] at hb; cases hb
        | unmapped => rw [ht] at hb; cases hb
    · have ha := decodeAddr_eq_register ht
      have hz := four off ht
      subst hz
      have key : ∀ p ∈ regTable, (p.2 = .status → p.1 = 8) ∧ (p.2 = .cmd → p.1 = 4) ∧ (p.2 = .cfg → p.1 = 12) := by
        decide
      have hk := key _ hm
      have hb' : r ≠ .cmd → r ≠ .status → s.hostBusy = false := by
        intro h1 h2
        rcases hb with hb | hb
        · exact hb
        · rw [ht] at hb
          have hr : regAt off = some .status ∨ regAt off = some .cmd := of_decide_eq_true hb
          have uniq : ∀ p ∈ regTable, regAt p.1 = some p.2 := by decide
          rw [uniq _ hm] at hr
          simp [h1, h2] at hr
      rw [e] at h
      cases r
      case cmd =>
        have haa : a = 0x00000004 := BitVec.eq_of_toNat_eq (by rw [ha]; exact hk.2.1 rfl)
        exact .inr (.inr (.inl ⟨rfl, haa, h⟩))
      case status =>
        have haa : a = 0x00000008 := BitVec.eq_of_toNat_eq (by rw [ha]; exact hk.1 rfl)
        exact .inr (.inr (.inr (.inl ⟨rfl, haa, h⟩)))
      case cfg =>
        have haa : a = 0x0000000C := BitVec.eq_of_toNat_eq (by rw [ha]; exact hk.2.2 rfl)
        exact .inr (.inr (.inr (.inr (.inl ⟨rfl, haa, hb' (by decide) (by decide), h⟩))))
      case inLen =>
        exact .inr (.inr (.inr (.inr (.inr ⟨hb' (by decide) (by decide), _, h, rfl, .inl rfl, .inl rfl, .inl rfl, .inr rfl⟩))))
      all_goals
        exact .inr (.inr (.inr (.inr (.inr ⟨hb' (by decide) (by decide), _, h, rfl, .inl rfl, .inl rfl, .inl rfl, .inl rfl⟩))))
    · have hb' : s.hostBusy = false := by
        rcases hb with hb | hb
        · exact hb
        · rw [ht] at hb; cases hb
      refine .inr (.inr (.inr (.inr (.inr ⟨hb', _, h, ?_, .inr ⟨off, ht, by rw [e]⟩, ?_, ?_, ?_⟩))))
      · rw [e, writeInput_frame]
      · rw [e, writeInput_frame]; exact .inl rfl
      · rw [e, writeInput_frame]; exact .inl rfl
      · rw [e, writeInput_frame]; exact .inl rfl
    · have hb' : s.hostBusy = false := by
        rcases hb with hb | hb
        · exact hb
        · rw [ht] at hb; cases hb
      rw [e] at h
      cases b
      · exact .inr (.inr (.inr (.inr (.inr ⟨hb', _, h, rfl, .inl rfl, .inr ⟨i, hi, rfl⟩, .inl rfl, .inl rfl⟩))))
      · exact .inr (.inr (.inr (.inr (.inr ⟨hb', _, h, rfl, .inl rfl, .inl rfl, .inr ⟨i, hi, rfl⟩, .inl rfl⟩))))

/-- What a host read can do, once: respond, draw a value while BUSY, or synchronise (R51, R62, R63, R177). -/
theorem hostRead_effect (s : State) (z : Size) (a : Word) :
    ∃ r, s.hostRead z a = s.respond r ∨
      (s.hostBusy = true ∧ s.hostRead z a = ({ s with draws := s.draws + 1 } : State).respond r) ∨
      (z = .four ∧ a = 0x00000008 ∧ s.seq = .idle ∧
        s.hostRead z a = ({ s with awaitSync := false } : State).respond r) := by
  rcases hostRead_cases s z a with ⟨-, h⟩ | ⟨-, hb, -, h⟩ | ⟨he, -, h⟩
  · exact ⟨_, .inl h⟩
  · exact ⟨_, .inr (.inl ⟨hb, h⟩)⟩
  · rcases synced_cases s (decodeAddr a) with e | ⟨ht, hs, e⟩
    · rw [e] at h
      exact ⟨_, .inl h⟩
    · rw [e] at h
      rw [busError_eq_false_iff, ht] at he
      exact ⟨_, .inr (.inr ⟨of_decide_eq_true he.2, BitVec.eq_of_toNat_eq (decodeAddr_eq_register ht), hs, h⟩)⟩

/-- A host access never ends a command, and changes neither the parameters nor the turns to come (R21, R62, R98, R178). -/
theorem hostAccess_of_busy {s : State} {w : Word} (h : s.seq = .busy w) (a : Access) :
    (s.hostAccess a).seq = .busy w ∧ (s.hostAccess a).params = s.params ∧ (s.hostAccess a).pending = s.pending := by
  cases a with
  | read z a =>
    show (s.hostRead z a).seq = _ ∧ (s.hostRead z a).params = _ ∧ (s.hostRead z a).pending = _
    obtain ⟨r, e | ⟨-, e⟩ | ⟨-, -, -, e⟩⟩ := hostRead_effect s z a <;> rw [e] <;> exact ⟨h, rfl, rfl⟩
  | write z a v =>
    show (s.hostWrite z a v).seq = _ ∧ (s.hostWrite z a v).params = _ ∧ (s.hostWrite z a v).pending = _
    rcases hostWrite_effect s z a v with e | ⟨-, -, -, e⟩ | ⟨-, -, e⟩ | ⟨-, -, e⟩ | ⟨-, -, -, e⟩ | ⟨-, u, e, hu, -⟩ <;> rw [e]
    · exact ⟨h, rfl, rfl⟩
    · exact ⟨h, rfl, rfl⟩
    · rcases writeCmd_cases s v with ⟨hs, -⟩ | ⟨w', -, e'⟩
      · rw [h] at hs; cases hs
      · rw [e']; exact ⟨h, rfl, rfl⟩
    · exact ⟨h, rfl, rfl⟩
    · exact ⟨h, rfl, rfl⟩
    · rw [hu]; exact ⟨h, rfl, rfl⟩

/-- A read of IN inside the capacity is the little-endian read of its bytes (R52, R59). -/
theorem readInput_eq {s : State} {off n : Nat} (h : off + n ≤ s.params.inCap) : s.readInput off n = s.memRead off n := by
  induction n generalizing off with
  | zero => rfl
  | succ n ih => rw [State.readInput, State.memRead, ih (by omega), State.inputLane, if_pos (by omega)]

/-- Beyond the capacity IN reads 0 and ignores writes (R56). -/
theorem readInput_beyond {s : State} {off : Nat} (h : s.params.inCap ≤ off) (n : Nat) : s.readInput off n = 0 := by
  induction n generalizing off with
  | zero => rfl
  | succ n ih => rw [State.readInput, ih (by omega), State.inputLane, if_neg (by omega)]

theorem writeInput_beyond {s : State} {off : Nat} (h : s.params.inCap ≤ off) (v : Word) (n : Nat) :
    s.writeInput off v n = s := by
  induction n with
  | zero => rfl
  | succ n ih =>
    rw [State.writeInput, ih]
    exact if_neg (by omega)

/-- An aligned access to a mapped address, of a size its window takes, is no bus error (R51 to R56). -/
theorem busError_of_mapped {z : Size} {a : Word} (hal : a.toNat % z.bytes = 0)
    (h : (z = .four ∧ a.toNat < 0x800) ∨ (0x10000000 ≤ a.toNat ∧ a.toNat < 0x20000000) ∨
      (z = .four ∧ 0x20000000 ≤ a.toNat ∧ a.toNat < 0x40000000)) : busError z a = false := by
  rw [busError_eq_false_iff]
  refine ⟨hal, ?_⟩
  rcases h with ⟨rfl, h⟩ | h | ⟨rfl, h⟩
  · by_cases h' : a.toNat < 0x400
    · rw [decodeAddr_register h']; rfl
    · rw [decodeAddr_palette (by omega) (by omega)]; rfl
  · rw [decodeAddr_input h.1 h.2]; rfl
  · by_cases h' : a.toNat < 0x30000000
    · rw [decodeAddr_bank0 (by omega) (by omega)]; rfl
    · rw [decodeAddr_bank1 (by omega) (by omega)]; rfl

/-- While BUSY only CMD and STATUS take a write (R177). -/
theorem writeDefined_false {a : Word} (h4 : a ≠ 0x00000004) (h8 : a ≠ 0x00000008) :
    (decodeAddr a).writeDefined = false := by
  by_contra h
  rw [Bool.not_eq_false] at h
  cases ht : decodeAddr a with
  | register off =>
    rw [ht] at h
    have hr : regAt off = some .status ∨ regAt off = some .cmd := of_decide_eq_true h
    have key : ∀ p ∈ regTable, (p.2 = .status → p.1 = 8) ∧ (p.2 = .cmd → p.1 = 4) := by decide
    have ha := decodeAddr_eq_register ht
    rcases hr with hr | hr
    · exact h8 (BitVec.eq_of_toNat_eq (by rw [ha]; exact (key _ (regAt_mem hr)).1 rfl))
    · exact h4 (BitVec.eq_of_toNat_eq (by rw [ha]; exact (key _ (regAt_mem hr)).2 rfl))
  | palette i => rw [ht] at h; cases h
  | input i => rw [ht] at h; cases h
  | pixel b i => rw [ht] at h; cases h
  | unmapped => rw [ht] at h; cases h

/-- While BUSY only ID, STATUS, IN_CAP and GRID_CAP read as a defined value (R177). -/
theorem readDefined_false {a : Word} (h0 : a ≠ 0x00000000) (h8 : a ≠ 0x00000008) (h28 : a ≠ 0x00000028)
    (h2c : a ≠ 0x0000002C) : (decodeAddr a).readDefined = false := by
  by_contra h
  rw [Bool.not_eq_false] at h
  cases ht : decodeAddr a with
  | register off =>
    rw [ht] at h
    have hr : regAt off = some .id ∨ regAt off = some .status ∨ regAt off = some .inCap ∨ regAt off = some .gridCap :=
      of_decide_eq_true h
    have key : ∀ p ∈ regTable, (p.2 = .id → p.1 = 0) ∧ (p.2 = .status → p.1 = 8) ∧ (p.2 = .inCap → p.1 = 0x28) ∧
        (p.2 = .gridCap → p.1 = 0x2C) := by decide
    have ha := decodeAddr_eq_register ht
    rcases hr with hr | hr | hr | hr
    · exact h0 (BitVec.eq_of_toNat_eq (by rw [ha]; exact (key _ (regAt_mem hr)).1 rfl))
    · exact h8 (BitVec.eq_of_toNat_eq (by rw [ha]; exact (key _ (regAt_mem hr)).2.1 rfl))
    · exact h28 (BitVec.eq_of_toNat_eq (by rw [ha]; exact (key _ (regAt_mem hr)).2.2.1 rfl))
    · exact h2c (BitVec.eq_of_toNat_eq (by rw [ha]; exact (key _ (regAt_mem hr)).2.2.2 rfl))
  | palette i => rw [ht] at h; cases h
  | input i => rw [ht] at h; cases h
  | pixel b i => rw [ht] at h; cases h
  | unmapped => rw [ht] at h; cases h

/-- A write to IN keeps the canonical form and stays inside the capacity. -/
theorem writeInput_wf {s : State} (h : Memory.wf s.inMem) (off : Nat) (v : Word) (n : Nat) :
    Memory.wf (s.writeInput off v n).inMem := by
  induction n with
  | zero => exact h
  | succ n ih =>
    rw [State.writeInput]
    split
    · exact Memory.wf_set ih _ _
    · exact ih

theorem writeInput_below {s : State} (h : Memory.below s.inMem s.params.inCap) (off : Nat) (v : Word) (n : Nat) :
    Memory.below (s.writeInput off v n).inMem s.params.inCap := by
  induction n with
  | zero => exact h
  | succ n ih =>
    rw [State.writeInput]
    split
    · next hlt => exact Memory.below_set ih _ hlt
    · exact ih

end Sys2Proof.Machine
end

