-- ==== Sys2Proof/Laws/Decode.lean ====
section
/-! SUPPORT. What the decoder can do, said once: the two fields of a command word and the four encodings. -/

namespace Sys2Proof

/-- The fields of a command word as numbers: OP is bits 3:0, RSVD bits 31:4 (R70). -/
theorem opField_toNat (w : Word) : (opField w).toNat = w.toNat % 16 := by
  simp [opField]

theorem rsvdField_toNat (w : Word) : (rsvdField w).toNat = w.toNat / 16 := by
  have := w.isLt
  simp only [rsvdField, BitVec.extractLsb'_toNat, Nat.shiftRight_eq_div_pow]
  omega

/-- An operation code of the map is the word of its command (R71, R72). -/
theorem opInstr_some {op : BitVec 4} {i : Instr} (h : opInstr op = some i) : op.toNat = (encode i).toNat := by
  unfold opInstr at h
  split at h <;> first | (cases h; assumption) | cases h

/-- The operation codes the map leaves reserved are 4 to 15 (R73). -/
theorem opInstr_eq_none {op : BitVec 4} : opInstr op = none ↔ 4 ≤ op.toNat := by
  unfold opInstr
  generalize op.toNat = n
  rcases n with _ | _ | _ | _ | n <;> simp

end Sys2Proof
end

