-- ==== Sys2Proof/Laws/Field.lean ====
section
/-! SUPPORT. The stream as a string of bits: which bit of which byte a little-endian read takes (R57, R58). -/

namespace Sys2Proof.Machine

theorem byteBit_lt (v : Byte) (i : Nat) : byteBit v i < 2 := Nat.mod_lt _ (by norm_num)

theorem byteBit_eq (v : Byte) (i : Nat) : byteBit v i = (v.toNat.testBit i).toNat := (Nat.toNat_testBit _ _).symm

/-- Bit i of an n-byte little-endian read is bit `i mod 8` of byte `i div 8` (R58). -/
theorem memRead_testBit (s : State) (a n i : Nat) (hi : i < 8 * n) :
    (s.memRead a n).testBit i = (s.inByte (a + i / 8)).toNat.testBit (i % 8) := by
  induction n generalizing a i with
  | zero => omega
  | succ n ih =>
    have hb := (s.inByte a).isLt
    rw [State.memRead]
    by_cases h : i < 8
    · have e1 : i / 8 = 0 := by omega
      have e2 : i % 8 = i := by omega
      rw [e1, e2, Nat.add_zero]
      have e3 : ((s.inByte a).toNat + 256 * s.memRead (a + 1) n) % 2 ^ 8 = (s.inByte a).toNat := by
        norm_num
        omega
      have e4 := Nat.testBit_mod_two_pow ((s.inByte a).toNat + 256 * s.memRead (a + 1) n) 8 i
      rw [e3, decide_eq_true h, Bool.true_and] at e4
      exact e4.symm
    · obtain ⟨j, rfl⟩ : ∃ j, i = j + 8 := ⟨i - 8, by omega⟩
      rw [Nat.testBit_add]
      have e3 : ((s.inByte a).toNat + 256 * s.memRead (a + 1) n) / 2 ^ 8 = s.memRead (a + 1) n := by
        norm_num
        omega
      have e4 : (j + 8) / 8 = j / 8 + 1 := by omega
      have e5 : (j + 8) % 8 = j % 8 := by omega
      rw [e3, ih (a + 1) j (by omega), e4, e5, show a + 1 + j / 8 = a + (j / 8 + 1) by omega]

/-- A sum of bits weighted by powers of two stays below the next power. -/
theorem bitSum_lt (g : Nat → Nat) (hg : ∀ k, g k < 2) (b : Nat) :
    ((List.range b).map fun k => g k * 2 ^ k).sum < 2 ^ b := by
  induction b with
  | zero => simp
  | succ b ih =>
    have h1 := Nat.mul_le_mul_right (2 ^ b) (Nat.le_of_lt_succ (hg b))
    rw [List.range_succ, List.map_append, List.sum_append, Nat.pow_succ]
    simp only [List.map_cons, List.map_nil, List.sum_cons, List.sum_nil]
    omega

/-- The bits of a sum of weighted bits. -/
theorem bitSum_testBit (g : Nat → Nat) (hg : ∀ k, g k < 2) (b i : Nat) :
    (((List.range b).map fun k => g k * 2 ^ k).sum).testBit i = (decide (i < b) && decide (g i = 1)) := by
  induction b with
  | zero => simp
  | succ b ih =>
    have hlt := bitSum_lt g hg b
    rw [List.range_succ, List.map_append, List.sum_append]
    simp only [List.map_cons, List.map_nil, List.sum_cons, List.sum_nil, Nat.add_zero]
    rw [Nat.add_comm, Nat.mul_comm, Nat.testBit_two_pow_mul_add _ hlt, ih]
    rcases lt_trichotomy i b with h | h | h
    · rw [if_pos h]
      simp [h, Nat.lt_succ_of_lt h]
    · subst h
      rw [if_neg (lt_irrefl _), Nat.sub_self]
      have := hg i
      interval_cases hgi : g i <;> simp
    · rw [if_neg (by omega)]
      have := hg b
      have e : (g b).testBit (i - b) = false := by
        apply Nat.testBit_lt_two_pow
        calc g b < 2 ^ 1 := by omega
          _ ≤ 2 ^ (i - b) := Nat.pow_le_pow_right (by norm_num) (by omega)
      rw [e]
      simp; omega

/-- The bits of the byte-by-byte form of a field (R119). -/
theorem bitField_testBit (s : State) (base p b i : Nat) :
    (s.bitField base p b).testBit i =
      (decide (i < b) && (s.inByte (base + (p + i) / 8)).toNat.testBit ((p + i) % 8)) := by
  rw [State.bitField, bitSum_testBit (fun k => byteBit (s.inByte (base + (p + k) / 8)) ((p + k) % 8)) fun k => byteBit_lt _ _]
  congr 1
  rw [byteBit_eq]
  cases (s.inByte (base + (p + i) / 8)).toNat.testBit ((p + i) % 8) <;> simp

theorem bitField_lt (s : State) (base p b : Nat) : s.bitField base p b < 2 ^ b :=
  bitSum_lt _ (fun _ => byteBit_lt _ _) b

end Sys2Proof.Machine
end

