-- ==== Sys2Proof/Laws/PerInstr.lean ====
section
/-! SUPPORT. Facts about each command as syntax, one lemma per constructor. -/

namespace Sys2Proof.Laws.ReservedZero

/-- The field RSVD of the command's word is 0, as format C asks (R70). -/
def Statement (i : Instr) : Prop := rsvdField (encode i) = 0

theorem nop : Statement .nop := by unfold Statement; decide
theorem parse : Statement .parse := by unfold Statement; decide
theorem decode : Statement .decode := by unfold Statement; decide
theorem conv : Statement .conv := by unfold Statement; decide

end Sys2Proof.Laws.ReservedZero
end

