-- ==== Sys2Proof/Tests/Slice0.lean ====
section
/-! SUPPORT. Tests against the spec's own vectors (95_test_vectors.md), smoke tests of the configuration check, and for every
obligation with hypotheses a named witness that meets them. -/

namespace Sys2Proof.Tests

open Sys2Proof Sys2Proof.Machine

/-! ### Small states -/

/-- Bytes at rising offsets. -/
def cells (a : Nat) : List Nat → List Host.Cell
  | [] => []
  | b :: bs => (a, BitVec.ofNat 8 b) :: cells (a + 1) bs

/-- Grey pixels at rising indices: a single number v means (v, v, v) (95_test_vectors.md section 2.4). -/
def greys (i : Nat) : List Nat → List (Nat × Pixel)
  | [] => []
  | v :: vs => (i, ⟨BitVec.ofNat 8 v, BitVec.ofNat 8 v, BitVec.ofNat 8 v⟩) :: greys (i + 1) vs

/-- A stream in IN with IN_LEN its length. -/
def stream (bytes : List Nat) : State :=
  { State.reset with inMem := cells 0 bytes, inLen := BitVec.ofNat 32 bytes.length }

/-- A grid in bank 0, with its dimensions in GRID_W and GRID_H and a value in PARAM. -/
def grid (w h : Nat) (v : Word) (px : List Nat) : State :=
  { State.reset with gridW := BitVec.ofNat 32 w, gridH := BitVec.ofNat 32 h, param := v, pix0 := greys 0 px }

/-- A state whose next turn is a host access. -/
def hosting (s : State) (a : Access) : State := { s with pending := [.host a] }

/-- A state in which a command word was issued. -/
def running (w : Word) : State := State.reset.issue w

/-- After a CMD write whose end the host has not yet seen. -/
def unsynced : State := { State.reset with awaitSync := true }

/-- The smallest legal machine: one pixel, 54 bytes. -/
def small : State := { State.reset with params := ⟨1, 54⟩ }

/-- What a step leaves, where it leaves a next state. -/
def nextOf (o : Host.Outcome State Fault Refusal) : Option State :=
  match o with
  | .next s => some s
  | _ => none

/-- The STATUS word a step leaves. -/
def statusOf (o : Host.Outcome State Fault Refusal) : Option Word := (nextOf o).map fun s => statusWord s.seq s.status

/-- The red lane of the first n pixels of the current bank a step leaves. -/
def lanesOf (n : Nat) (o : Host.Outcome State Fault Refusal) : Option (List Nat) :=
  (nextOf o).map fun s => (List.range n).map fun i => (s.pixel s.status.curBank i).r.toNat

/-- The pixels of bank 0 a step leaves, as bus words. -/
def wordsOf (n : Nat) (o : Host.Outcome State Fault Refusal) : Option (List Word) :=
  (nextOf o).map fun s => (List.range n).map fun i => pixelWord (s.pixel .bank0 i)

/-- V1: the 2 by 2 stream at 24 bits (95_test_vectors.md V1). -/
def vector1 : List Nat :=
  [0x42, 0x4D, 0x46, 0, 0, 0, 0, 0, 0, 0, 0x36, 0, 0, 0] ++
  [0x28, 0, 0, 0, 2, 0, 0, 0, 2, 0, 0, 0, 1, 0, 0x18, 0] ++
  [0, 0, 0, 0, 0x10, 0, 0, 0, 0, 0, 0, 0, 0, 0, 0, 0] ++
  [0, 0, 0, 0, 0, 0, 0, 0] ++
  [0, 0, 0xFF, 0, 0xFF, 0, 0, 0] ++
  [0xFF, 0, 0, 0xFF, 0xFF, 0xFF, 0, 0]

/-- V2: the 8 by 1 stream at 1 bit (95_test_vectors.md V2). -/
def vector2 : List Nat :=
  [0x42, 0x4D, 0x3E, 0, 0, 0, 0, 0, 0, 0, 0x3A, 0, 0, 0] ++
  [0x28, 0, 0, 0, 8, 0, 0, 0, 1, 0, 0, 0, 1, 0, 1, 0] ++
  [0, 0, 0, 0, 0, 0, 0, 0, 0, 0, 0, 0, 0, 0, 0, 0] ++
  [1, 0, 0, 0, 0, 0, 0, 0] ++
  [0x32, 0x64, 0xC8, 0] ++
  [0x4D, 0, 0, 0]

/-! ### The configuration check (R9): each bound broken once -/

theorem test_wf_default : Config.defaultParams.wf = true := by decide
theorem test_wf_small : (⟨1, 54⟩ : Config.Params).wf = true := by decide
theorem test_wf_large : (⟨67108864, 268435456⟩ : Config.Params).wf = true := by decide
theorem test_wf_no_grid : (⟨0, 54⟩ : Config.Params).wf = false := by decide
theorem test_wf_grid_too_large : (⟨67108865, 54⟩ : Config.Params).wf = false := by decide
theorem test_wf_window_too_small : (⟨1, 53⟩ : Config.Params).wf = false := by decide
theorem test_wf_window_too_large : (⟨1, 268435457⟩ : Config.Params).wf = false := by decide
theorem test_wf_refused : step { State.reset with params := ⟨0, 54⟩ } = .refused .badConfiguration := by rfl

/-! ### Decoding: words written out from the opcode map, RSVD then OP (R70 to R73) -/

theorem test_decode_nop : decodeWord 0b0000000000000000000000000000_0000 = .ok .nop := by rfl
theorem test_decode_parse : decodeWord 0b0000000000000000000000000000_0001 = .ok .parse := by rfl
theorem test_decode_decode : decodeWord 0b0000000000000000000000000000_0010 = .ok .decode := by rfl
theorem test_decode_conv : decodeWord 0b0000000000000000000000000000_0011 = .ok .conv := by rfl
theorem test_decode_op4 : decodeWord 0b0000000000000000000000000000_0100 = .error (.reservedOp 4) := by rfl
theorem test_decode_op15 : decodeWord 0b0000000000000000000000000000_1111 = .error (.reservedOp 15) := by rfl
theorem test_decode_rsvd_low : decodeWord 0b0000000000000000000000000001_0010 = .error .reservedBits := by rfl
theorem test_decode_rsvd_high : decodeWord 0b1000000000000000000000000000_0010 = .error .reservedBits := by rfl
theorem test_table_word : decodeTableWord 32 3 = some .conv := by rfl
theorem test_table_word_illegal : decodeTableWord 32 4 = none := by rfl

/-! ### NOP and the illegal command (V60, V61, V63) -/

theorem test_nop_status : statusOf (step (State.reset.withFetchWord 32 0)) = some 0x00000002 := by rfl
theorem test_illegal_op : statusOf (step (State.reset.withFetchWord 32 0x4)) = some 0x00000B06 := by rfl
theorem test_illegal_rsvd : statusOf (step (State.reset.withFetchWord 32 0x12)) = some 0x00000B06 := by rfl

/-! ### PARSE and DECODE (V1, V2, V72, V113, V134) -/

theorem test_parse_nothing : statusOf (exec .parse (running 1)) = some 0x00000706 := by rfl

theorem test_parse_vector1 :
    ((nextOf (exec .parse (stream vector1))).map fun s => (s.infoHdr.width, s.infoHdr.bpp, s.rowBytes, s.gridW)) =
      some (2, 24, 8, 0) := by rfl

theorem test_decode_vector1 : wordsOf 4 (exec .decode (stream vector1)) =
    some [0x00FF0000, 0x0000FF00, 0x000000FF, 0x00FFFFFF] := by rfl

theorem test_decode_short : statusOf (exec .decode { stream vector1 with inLen := 67 }) = some 0x0000000A ∧
    wordsOf 4 (exec .decode { stream vector1 with inLen := 67 }) = some [0x00FF0000, 0x0000FF00, 0, 0] := by
  exact ⟨rfl, rfl⟩

theorem test_decode_vector2 : wordsOf 8 (exec .decode (stream vector2)) =
    some [0x00C86432, 0, 0x00C86432, 0x00C86432, 0, 0, 0x00C86432, 0] := by rfl

/-! ### CONV (V30, V37, V38, V45, V48) -/

theorem test_conv_blur : lanesOf 9 (exec .conv (grid 3 3 1 [0, 0, 0, 0, 160, 0, 0, 0, 0])) =
    some [0, 0, 0, 0, 40, 0, 0, 0, 0] ∧
    statusOf (exec .conv (grid 3 3 1 [0, 0, 0, 0, 160, 0, 0, 0, 0])) = some 0x00000022 := by exact ⟨rfl, rfl⟩

theorem test_conv_sharpen_wrap : lanesOf 5 (exec .conv (grid 3 3 0xFFFFFFFF [100, 100, 100, 100, 10, 100, 100, 100, 100])) =
    some [100, 100, 100, 100, 162] ∧
    statusOf (exec .conv (grid 3 3 0xFFFFFFFF [100, 100, 100, 100, 10, 100, 100, 100, 100])) = some 0x00000032 := by
  exact ⟨rfl, rfl⟩

/-! ### Witnesses: for each obligation with hypotheses, concrete states that meet them -/

/-- The premises most host statements share: the engine IDLE, the host synchronised, one access pending. -/
abbrev Quiet (s : State) (a : Access) : Prop :=
  s.params.wf = true ∧ s.noHostFault ∧ s.seq = .idle ∧ s.awaitSync = false ∧ s.pending = .host a :: []

/-- The premises of the statements on an engine the host must treat as BUSY. -/
abbrev Held (s : State) (a : Access) : Prop :=
  s.params.wf = true ∧ s.noHostFault ∧ (s.seq ≠ .idle ∨ s.awaitSync = true) ∧ s.pending = .host a :: []

theorem busy_ne_idle (w : Word) : Seq.busy w ≠ .idle := fun h => nomatch h
theorem quiet_reset (a : Access) : Quiet (hosting State.reset a) a := ⟨test_wf_default, rfl, rfl, rfl, rfl⟩
theorem quiet_small (a : Access) : Quiet (hosting small a) a := ⟨test_wf_small, rfl, rfl, rfl, rfl⟩
theorem held_running (w : Word) (a : Access) : Held (hosting (running w) a) a :=
  ⟨test_wf_default, rfl, .inl (busy_ne_idle w), rfl⟩
theorem held_unsynced (a : Access) : Held (hosting unsynced a) a := ⟨test_wf_default, rfl, .inr rfl, rfl⟩

/-- The premises of the statements on a CONV that runs. -/
abbrev Convolves (s : State) : Prop :=
  s.noHostFault ∧ s.param ≠ 0 ∧ 0 < s.gridW.toNat ∧ 0 < s.gridH.toNat ∧ s.gridW.toNat * s.gridH.toNat ≤ s.params.gridCap

theorem witness_DecodeAndEncodeAgree :
    decodeWord 0x00000003 = .ok .conv := by
  rfl

theorem witness_StepRunsTheDecodedCommand :
    ((running 3).params.wf = true ∧ (running 3).noHostFault ∧ (running 3).seq = .busy 3 ∧ decodeWord 3 = .ok .conv ∧
      (running 3).pending = []) ∧ ({ running 0 with pending := [.engine] } : State).pending = .engine :: [] := by
  constructorm* _ ∧ _ <;> rfl

/-- The engine's turn, with none pending and as a pending turn. -/
theorem witness_EngineDispatchesOnTheWord :
    ∀ w ∈ ([0, 3, 4, 0x80000000] : List Word), (running w).params.wf = true ∧ (running w).noHostFault ∧
      (running w).seq = .busy w ∧ (running w).pending = [] ∧
      ({ running w with pending := [.engine, .reset] } : State).pending = .engine :: [.reset] := by
  exact fun w _ => ⟨test_wf_default, rfl, rfl, rfl, rfl⟩

theorem witness_PlacedWordRunsNext :
    State.reset.params.wf = true ∧ State.reset.noHostFault ∧ decodeWord 2 = .ok .decode := by
  constructorm* _ ∧ _ <;> rfl

theorem witness_CmdWriteStartsTheCommand :
    Quiet (hosting State.reset (.write .four 4 0)) (.write .four 4 0) := by
  exact quiet_reset _

theorem witness_CmdWriteWhileBusyIsDropped :
    Held (hosting (running 3) (.write .four 4 0)) (.write .four 4 0) ∧ (running 3).seq = .busy 3 := by
  exact ⟨held_running _ _, rfl⟩

theorem witness_LostFallsByStatusWriteOrReset :
    (∃ t, step (hosting { State.reset with status := { Status.reset with lost := true } } (.write .four 8 0x40)) = .next t ∧
      t.status.lost = false) ∧
      ∃ t, step { State.reset with status := { Status.reset with lost := true }, pending := [.reset] } = .next t ∧
        t.status.lost = false := by
  exact ⟨⟨_, rfl, rfl⟩, ⟨_, rfl, rfl⟩⟩

theorem witness_NopLeavesACleanStatus :
    State.reset.params.wf = true ∧ State.reset.noHostFault ∧ State.reset.seq = .idle ∧
      ({ State.reset with pending := [.host (.write .four 4 0), .engine] } : State).pending =
        .host (.write .four 4 0) :: .engine :: [] := by
  constructorm* _ ∧ _ <;> rfl

/-- The engine's turn, with none pending and as a pending turn. -/
theorem witness_IllegalWordEndsWithIllegalCommand :
    ∀ w ∈ ([0x00000004, 0x0000000F, 0x00000010, 0xFFFFFFFF] : List Word),
      (4 ≤ w.toNat % 16 ∨ w.toNat / 16 ≠ 0) ∧ (running w).params.wf = true ∧ (running w).noHostFault ∧
      (running w).seq = .busy w ∧ (running w).pending = [] ∧
      ({ running w with pending := [.engine, .reset] } : State).pending = .engine :: [.reset] := by
  exact fun w hw => ⟨by fin_cases hw <;> decide, test_wf_default, rfl, rfl, rfl, rfl⟩

theorem witness_EveryCommandEnds :
    State.reset.noHostFault := by
  rfl

theorem witness_SequencerMovesOnlyAsTheSpecSays :
    (∃ t, step (hosting State.reset (.write .four 4 3)) = .next t ∧ t.seq ≠ State.reset.seq) ∧
      (∃ t, step (running 0) = .next t ∧ t.seq ≠ (running 0).seq) ∧
      ∃ t, step { running 0 with pending := [.reset] } = .next t ∧ t.seq ≠ (running 0).seq := by
  exact ⟨⟨_, rfl, busy_ne_idle 3⟩, ⟨_, rfl, (busy_ne_idle 0).symm⟩, ⟨_, rfl, (busy_ne_idle 0).symm⟩⟩

theorem witness_CommandsKeepWhatTheyMayNotChange :
    (running 0).noHostFault ∧ ∀ i : Instr, ∃ t, exec i (running 0) = .next t := by
  exact ⟨rfl, fun i => by cases i <;> exact ⟨_, rfl⟩⟩

/-- V1 with some bytes replaced. -/
def patched (ps : List (Nat × Nat)) : State :=
  ps.foldl (fun s p => { s with inMem := Memory.set s.inMem p.1 (BitVec.ofNat 8 p.2) }) (stream vector1)

/-- V1 cut to 13 and to 14 bytes: the two sides of the length check of R102. -/
theorem witness_FileHeaderShadowsHoldTheRawFields :
    (stream vector1).noHostFault ∧ ({ stream vector1 with inLen := 13 } : State).inLen.toNat < 14 ∧
      14 ≤ ({ stream vector1 with inLen := 14 } : State).inLen.toNat := by
  constructorm* _ ∧ _ <;> first | rfl | decide

/-- V1 cut to 53 and to 54 bytes, and with one byte of the signature wrong: every side of the checks of R103 and R104. -/
theorem witness_InfoHeaderShadowsHoldTheRawFields :
    (stream vector1).noHostFault ∧ 54 ≤ ({ stream vector1 with inLen := 54 } : State).inLen.toNat ∧
      ({ stream vector1 with inLen := 53 } : State).inLen.toNat < 54 ∧ (stream vector1).inByte 0 = 0x42 ∧
      (stream vector1).inByte 1 = 0x4D ∧ (patched [(0, 0x43)]).inByte 0 ≠ 0x42 ∧ (patched [(1, 0x4E)]).inByte 1 ≠ 0x4D := by
  constructorm* _ ∧ _ <;> first | rfl | decide

/-! The header checks: V117, V119, V120, V121, V123, V124, V126, V127, V128, V129, V130 (its palette short), V116, V131 to
V133; each with the STATUS word that R150 and R153 give: ERRCODE, ERR and DONE -/

/-- The first failing check of a stream, and STATUS after PARSE. -/
abbrev FailsWith (s : State) (e : EngineError) (status : Word) : Prop :=
  s.headerError = some e ∧ statusOf (exec .parse s) = some status

theorem witness_FirstFailingCheckLength13 : FailsWith { stream vector1 with inLen := 13 } .readError 0x00000706 := by exact ⟨rfl, rfl⟩
theorem witness_FirstFailingCheckSignature : FailsWith { patched [(1, 0x4E)] with inLen := 14 } .invalidSignature 0x00000106 := by exact ⟨rfl, rfl⟩
theorem witness_FirstFailingCheckLength53 : FailsWith { stream vector1 with inLen := 53 } .readError 0x00000706 := by exact ⟨rfl, rfl⟩
theorem witness_FirstFailingCheckPlanes : FailsWith (patched [(26, 2)]) .tooManyPlanes 0x00000206 := by exact ⟨rfl, rfl⟩
theorem witness_FirstFailingCheckImportant : FailsWith (patched [(50, 1)]) .invalidColorTable 0x00000306 := by exact ⟨rfl, rfl⟩
theorem witness_FirstFailingCheckDepth : FailsWith (patched [(28, 32)]) .invalidBitDepth 0x00000406 := by exact ⟨rfl, rfl⟩
theorem witness_FirstFailingCheckColors : FailsWith (patched [(28, 8)]) .invalidColorTable 0x00000306 := by exact ⟨rfl, rfl⟩
theorem witness_FirstFailingCheckHeaderSize : FailsWith (patched [(14, 124)]) .invalidHeaderSize 0x00000506 := by exact ⟨rfl, rfl⟩
theorem witness_FirstFailingCheckCompression : FailsWith (patched [(30, 1)]) .unsupportedCompression 0x00000606 := by exact ⟨rfl, rfl⟩
theorem witness_FirstFailingCheckPalette : FailsWith { stream vector2 with inLen := 57 } .readError 0x00000706 := by exact ⟨rfl, rfl⟩
theorem witness_FirstFailingCheckSeek : FailsWith (patched [(10, 71)]) .seekError 0x00000806 := by exact ⟨rfl, rfl⟩
theorem witness_FirstFailingCheckWidth : FailsWith (patched [(18, 0)]) .allocationError 0x00000906 := by exact ⟨rfl, rfl⟩
theorem witness_FirstFailingCheckHeight : FailsWith (patched [(22, 0xFF), (23, 0xFF), (24, 0xFF), (25, 0xFF)]) .allocationError 0x00000906 := by exact ⟨rfl, rfl⟩
theorem witness_FirstFailingCheckCapacity : FailsWith (patched [(18, 1), (19, 0x1E), (22, 0xE0), (23, 0x10)]) .allocationError 0x00000906 := by exact ⟨rfl, rfl⟩

theorem witness_ParseLoadsHeadersPaletteAndStride :
    (stream vector2).params.wf = true ∧ (stream vector2).noHostFault ∧ (stream vector2).headerError = none := by
  constructorm* _ ∧ _ <;> rfl

/-- All rows full, and V113, where the second is short. -/
theorem witness_DecodeBuildsTheGridOfTheStream :
    (stream vector1).params.wf = true ∧ (stream vector1).noHostFault ∧ (stream vector1).headerError = none ∧
      ({ stream vector1 with inLen := 67 } : State).headerError = none ∧
      ({ stream vector1 with inLen := 67 } : State).fullRows = 1 ∧ (stream vector1).fullRows = 2 := by
  constructorm* _ ∧ _ <;> rfl

theorem witness_DecodeTouchesOnlyItsGrid :
    (stream vector1).noHostFault ∧ (stream vector1).streamWidth * (stream vector1).streamHeight ≤ 4 ∧
      State.reset.headerError ≠ none := by
  constructorm* _ ∧ _ <;> first | rfl | decide

theorem witness_DecodedGridDependsOnTheStreamOnly :
    let s := stream vector1
    let u := { s with param := 7, pix0 := greys 0 [1, 2], fileHdr := ⟨1, 2, 3, 4⟩ }
    s ≠ u ∧ s.params.wf = true ∧ u.params.wf = true ∧ s.noHostFault ∧ u.noHostFault ∧ s.inLen = u.inLen ∧
      s.params.gridCap = u.params.gridCap ∧ (∀ a < s.inLen.toNat, s.inByte a = u.inByte a) ∧ s.headerError = none := by
  exact ⟨fun h => absurd (congrArg State.param h) (by decide), test_wf_default, test_wf_default, rfl, rfl, rfl, rfl, fun _ _ => rfl, rfl⟩

/-- V4: a row of ones, the widest field at the last bit of a word. -/
theorem witness_FieldIsTheRowsBitString :
    (32 ≤ 32) ∧ ∀ a, 0 ≤ a → a ≤ 0 + (31 + 32) / 8 →
      (stream [0xFF, 0xFF, 0xFF, 0xFF, 0xFF, 0xFF, 0xFF, 0xFF]).inByte a = 0xFF := by
  exact ⟨le_rfl, fun a _ h => by interval_cases a <;> rfl⟩

/-! CONV: V30, V39, V41, V42, V45, V46, V48 -/

theorem witness_ConvRejectsZeroThenBadGrid :
    (grid 3 3 0 []).param = 0 ∧ (grid 0 3 1 []).gridW.toNat = 0 ∧ (grid 3 0 1 []).gridH.toNat = 0 ∧
      (grid 7681 4320 1 []).gridW.toNat * (grid 7681 4320 1 []).gridH.toNat > (grid 7681 4320 1 []).params.gridCap ∧
      (grid 7681 4320 1 []).param ≠ 0 ∧ (grid 7681 4320 1 []).noHostFault := by
  constructorm* _ ∧ _ <;> first | rfl | decide

/-- The least and the most passes either way; the largest grid of the default capacity. -/
theorem witness_ConvComputesThePassesOfTheGrid :
    Convolves (grid 3 3 1 [0, 0, 0, 0, 160, 0, 0, 0, 0]) ∧ Convolves (grid 1 1 0x80000000 [9]) ∧
      Convolves (grid 7680 4320 0x7FFFFFFF []) := by
  unfold Convolves; constructorm* _ ∧ _ <;> first | rfl | decide

theorem witness_ConvTouchesOnlyTheGrid :
    Convolves (grid 3 3 1 [0, 0, 0, 0, 160, 0, 0, 0, 0]) ∧ 3 * 3 ≤ 9 := by
  unfold Convolves; constructorm* _ ∧ _ <;> first | rfl | decide

theorem witness_RangeFlagsSharpenSumsOutside :
    Convolves (grid 3 3 0xFFFFFFFF [0, 0, 0, 0, 160, 0, 0, 0, 0]) ∧ (0xFFFFFFFF : Word).toInt < 0 := by
  unfold Convolves; constructorm* _ ∧ _ <;> first | rfl | decide

theorem witness_ConvKeepsTheBorder :
    Convolves (grid 3 3 1 [0, 0, 0, 0, 160, 0, 0, 0, 0]) ∧ (2 : Nat) = (grid 3 3 1 []).gridW.toNat - 1 := by
  unfold Convolves; constructorm* _ ∧ _ <;> first | rfl | decide

theorem witness_ConvCopiesAGridWithoutInterior :
    Convolves (grid 2 2 0xFFFFFFFB [1, 2, 3, 4]) ∧ (grid 2 2 0xFFFFFFFB [1, 2, 3, 4]).gridW.toNat ≤ 2 := by
  unfold Convolves; constructorm* _ ∧ _ <;> first | rfl | decide

theorem witness_ConvFixesAConstantGrid :
    Convolves (grid 3 3 0xFFFFFFFC [77, 77, 77, 77, 77, 77, 77, 77, 77]) ∧
      ∀ i < 9, (grid 3 3 0xFFFFFFFC [77, 77, 77, 77, 77, 77, 77, 77, 77]).pixel .bank0 i = ⟨77, 77, 77⟩ := by
  refine ⟨?_, fun i h => by interval_cases i <;> rfl⟩
  unfold Convolves; constructorm* _ ∧ _ <;> first | rfl | decide

theorem witness_ConvChannelsAreIndependent :
    Convolves (grid 1 1 1 [9]) ∧ ((grid 1 1 1 [9]).pixel .bank0 0).chan .red =
      (({ grid 1 1 1 [9] with pix0 := [(0, ⟨9, 8, 7⟩)] } : State).pixel .bank0 0).chan .red := by
  unfold Convolves; constructorm* _ ∧ _ <;> first | rfl | decide

theorem witness_SharpenStoresWrappedOrClamped :
    ((0 : Int) ≤ 0 ∧ (0 : Int) ≤ 255) ∧ ((0 : Int) ≤ 255 ∧ (255 : Int) ≤ 255) := by
  constructorm* _ ∧ _ <;> first | rfl | decide

/-! The host's accesses -/

theorem witness_StatusReadShowsTheFlags :
    Quiet (hosting State.reset (.read .four 8)) (.read .four 8) ∧ Held (hosting (running 3) (.read .four 8)) (.read .four 8) := by
  exact ⟨quiet_reset _, held_running _ _⟩

theorem witness_StatusWriteClearsDoneAndLost :
    Quiet (hosting State.reset (.write .four 8 0x42)) (.write .four 8 0x42) ∧
      Held (hosting (running 3) (.write .four 8 0)) (.write .four 8 0) := by
  exact ⟨quiet_reset _, held_running _ _⟩

/-- For IrqMovesOnlyAsTheSpecSays: the end of a command, with none pending and by an explicit turn, and V71. -/
theorem witness_IrqRises :
    (∃ t, step { running 0 with cfg := ⟨true, false⟩ } = .next t ∧ ({ running 0 with cfg := ⟨true, false⟩ } : State).irq = false ∧
      t.irq = true) ∧
      ∃ t, step (hosting { State.reset with status := Status.reset.ended } (.write .four 0xC 1)) = .next t ∧ t.irq = true := by
  exact ⟨⟨_, rfl, rfl, rfl⟩, ⟨_, rfl, rfl⟩⟩

/-- A finished command with IRQ_EN set. -/
def raised : State := { State.reset with status := Status.reset.ended, cfg := ⟨true, false⟩ }

/-- For IrqMovesOnlyAsTheSpecSays: its four ways down (V70). -/
theorem witness_IrqFalls :
    raised.irq = true ∧ (∃ t, step (hosting raised (.write .four 8 2)) = .next t ∧ t.irq = false) ∧
      (∃ t, step (hosting raised (.write .four 0xC 0)) = .next t ∧ t.irq = false) ∧
      (∃ t, step (hosting raised (.write .four 4 0)) = .next t ∧ t.irq = false) ∧
      ∃ t, step { raised with pending := [.reset] } = .next t ∧ t.irq = false := by
  exact ⟨rfl, ⟨_, rfl, rfl⟩, ⟨_, rfl, rfl⟩, ⟨_, rfl, rfl⟩, ⟨_, rfl, rfl⟩⟩

theorem witness_RegisterReadsReturnTheRegisters :
    Quiet (hosting State.reset (.read .four 0x000)) (.read .four 0x000) ∧
      Quiet (hosting State.reset (.read .four 0x078)) (.read .four 0x078) := by
  exact ⟨quiet_reset _, quiet_reset _⟩

theorem witness_RegisterWritesStore :
    ∀ a ∈ ([0xC, 0x10, 0x14, 0x18, 0x1C] : List Word),
      Quiet (hosting State.reset (.write .four a 0xFFFFFFFF)) (.write .four a 0xFFFFFFFF) := by
  exact fun a _ => quiet_reset _

theorem witness_ReadOnlyAndReservedIgnoreWrites :
    (∀ a ∈ ([0x000, 0x020, 0x078, 0x07C, 0x400, 0x7FC] : List Word), a.toNat % 4 = 0 ∧ a.toNat < 0x800 ∧
      (a.toNat < 0x004 ∨ 0x01C < a.toNat)) ∧
      (∀ a ∈ ([0x030, 0x03C, 0x07C, 0x3FC] : List Word), a.toNat % 4 = 0 ∧
        ((0x02C < a.toNat ∧ a.toNat < 0x040) ∨ (0x078 < a.toNat ∧ a.toNat < 0x400))) ∧
      (∀ a v, Quiet (hosting State.reset (.write .four a v)) (.write .four a v)) ∧
      ∀ a, Quiet (hosting State.reset (.read .four a)) (.read .four a) := by
  exact ⟨fun a ha => by fin_cases ha <;> decide, fun a ha => by fin_cases ha <;> decide, fun _ _ => quiet_reset _,
    fun _ => quiet_reset _⟩

theorem witness_BusErrorsHaveNoEffect :
    ((0x10000001 : Word).toNat % Size.two.bytes ≠ 0 ∧ (0x10000002 : Word).toNat % Size.four.bytes ≠ 0) ∧
      (0x800 ≤ (0x800 : Word).toNat ∧ (0x0FFFFFFC : Word).toNat < 0x10000000) ∧ 0x40000000 ≤ (0x40000000 : Word).toNat ∧
      (Size.one ≠ .four ∧ (0x7FF : Word).toNat < 0x10000000) ∧ (Size.two ≠ .four ∧ 0x20000000 ≤ (0x20000000 : Word).toNat) ∧
      (∀ z a, Quiet (hosting State.reset (.read z a)) (.read z a)) ∧
      ∀ z a v, Held (hosting (running 3) (.write z a v)) (.write z a v) := by
  exact ⟨by decide, by decide, by decide, by decide, by decide, fun _ _ => quiet_reset _, fun _ _ _ => held_running _ _⟩

theorem witness_InputWindowMovesBytesLittleEndian :
    (0 % Size.four.bytes = 0 ∧ 0 + Size.four.bytes ≤ State.reset.params.inCap) ∧
      (0xFFFFFFF % Size.one.bytes = 0 ∧ 0xFFFFFFF + Size.one.bytes ≤ State.reset.params.inCap) ∧
      (∀ z a v, Quiet (hosting State.reset (.write z a v)) (.write z a v)) ∧
      ∀ z a, Quiet (hosting State.reset (.read z a)) (.read z a) := by
  exact ⟨by decide, by decide, fun _ _ _ => quiet_reset _, fun _ _ => quiet_reset _⟩

theorem witness_PixelWindowsHoldOnePixelAWord :
    (0 < small.params.gridCap ∧ 33177599 < State.reset.params.gridCap ∧ Size.one ≠ .four ∧ Size.two ≠ .four) ∧
      (∀ z a v, Quiet (hosting State.reset (.write z a v)) (.write z a v)) ∧
      ∀ z a, Quiet (hosting small (.read z a)) (.read z a) := by
  exact ⟨by decide, fun _ _ _ => quiet_reset _, fun _ _ => quiet_small _⟩

theorem witness_PaletteWindowIsReadOnly :
    (0 < 256 ∧ 255 < 256 ∧ Size.one ≠ .four) ∧ (∀ z a v, Quiet (hosting State.reset (.write z a v)) (.write z a v)) ∧
      ∀ z a, Quiet (hosting State.reset (.read z a)) (.read z a) := by
  exact ⟨by decide, fun _ _ _ => quiet_reset _, fun _ _ => quiet_reset _⟩

/-- Where IN_CAP is below 2^28 the input window has such a range too. -/
theorem witness_BeyondCapacityReadsZeroIgnoresWrites :
    ((0x10000036 : Word).toNat % Size.two.bytes = 0 ∧ 0x10000000 + small.params.inCap ≤ (0x10000036 : Word).toNat) ∧
      ((0x20000004 : Word).toNat % Size.four.bytes = 0 ∧
        0x20000000 + 4 * small.params.gridCap ≤ (0x20000004 : Word).toNat) ∧
      ((0x3FFFFFFC : Word).toNat % Size.four.bytes = 0 ∧
        0x30000000 + 4 * small.params.gridCap ≤ (0x3FFFFFFC : Word).toNat) ∧
      (∀ z a v, Quiet (hosting small (.write z a v)) (.write z a v)) ∧
      ∀ z a, Quiet (hosting small (.read z a)) (.read z a) := by
  exact ⟨by decide, by decide, by decide, fun _ _ _ => quiet_small _, fun _ _ => quiet_small _⟩

theorem witness_ReadsHaveNoSideEffect :
    ∀ z a, Held (hosting (running 2) (.read z a)) (.read z a) := by
  exact fun _ _ => held_running _ _

theorem witness_WriteWhileBusyIsAHostFault :
    (∀ z a v, Held (hosting (running 2) (.write z a v)) (.write z a v) ∧ Held (hosting unsynced (.write z a v)) (.write z a v)) ∧
      ((0x7FC : Word).toNat % Size.four.bytes = 0 ∧ (0x7FC : Word).toNat < 0x800 ∧ (0x7FC : Word) ≠ 4 ∧ (0x7FC : Word) ≠ 8) ∧
      (0x1FFFFFFF : Word).toNat % Size.one.bytes = 0 ∧ (0x3FFFFFFC : Word).toNat % Size.four.bytes = 0 := by
  exact ⟨fun _ _ _ => ⟨held_running _ _, held_unsynced _⟩, by decide, by decide, by decide⟩

theorem witness_HostFaultIsStickyAndHasOneCause :
    (∃ t, step { State.reset with hostFault := true } = .next t) ∧
      ∃ t, step (hosting (running 2) (.write .four 0x10 5)) = .next t ∧ (running 2).hostFault = false ∧ t.hostFault = true := by
  exact ⟨⟨_, rfl⟩, ⟨_, rfl, rfl, rfl⟩⟩

theorem witness_ReadsWhileBusyComplete :
    (∀ z a, Held (hosting (running 2) (.read z a)) (.read z a) ∧ Held (hosting unsynced (.read z a)) (.read z a)) ∧
      ∀ a ∈ ([0x0, 0x4, 0x28, 0x2C, 0x7FC, 0x10000000, 0x3FFFFFFC] : List Word), a.toNat % Size.four.bytes = 0 := by
  exact ⟨fun _ _ => ⟨held_running _ _, held_unsynced _⟩, fun a ha => by fin_cases ha <;> decide⟩

theorem witness_OnlyTheStatusReadSynchronises :
    (∃ t, step (hosting unsynced (.read .four 8)) = .next t ∧ unsynced.awaitSync = true ∧ t.awaitSync = false) ∧
      (∃ t, step { unsynced with pending := [.reset] } = .next t ∧ t.awaitSync = false) ∧
      ∃ t, step (hosting State.reset (.write .four 4 0)) = .next t ∧ State.reset.awaitSync = false ∧ t.awaitSync = true := by
  exact ⟨⟨_, rfl, rfl, rfl⟩, ⟨_, rfl, rfl⟩, ⟨_, rfl, rfl, rfl⟩⟩

/-! Reset and the whole machine -/

/-- While BUSY, and in IDLE with bytes, an entry and a pixel to forget. -/
theorem witness_ResetGivesEveryRegisterItsValue :
    ((running 3).params.wf = true ∧ (running 3).noHostFault ∧
      ({ running 3 with pending := [.reset] } : State).pending = .reset :: []) ∧
      let s : State := { stream vector2 with pending := [.reset], pal := greys 0 [1], pix1 := greys 0 [2] }
      s.params.wf = true ∧ s.noHostFault ∧ s.pending = .reset :: [] := by
  constructorm* _ ∧ _ <;> rfl

theorem witness_OnlyTheHostWritesTheInputWindow :
    ∃ t, step (hosting (stream [1]) (.write .one 0x10000000 2)) = .next t ∧ t.inByte 0 ≠ (stream [1]).inByte 0 := by
  exact ⟨_, rfl, by decide⟩

theorem witness_StepStopsOnlyOnABadConfiguration :
    (1 ≤ small.params.gridCap ∧ 54 ≤ small.params.inCap) ∧ ¬ 1 ≤ ({ small with params := ⟨0, 54⟩ } : State).params.gridCap := by
  constructorm* _ ∧ _ <;> first | rfl | decide

/-- With none pending, and with a reset after the engine's turn. -/
theorem witness_BusyEngineEndsItsCommand :
    (∀ k, Turn.reset ∉ (running 3).pending.take k) ∧
    Turn.reset ∉ ({ running 3 with pending := [.engine, .reset] } : State).pending.take 1 ∧
    (running 3).params.wf = true ∧ (running 3).noHostFault ∧ (running 3).seq = .busy 3 := by
  exact ⟨fun k h => by simp [running, State.reset, State.issue] at h, by decide, test_wf_default, rfl, rfl⟩

theorem witness_StepKeepsTheInvariant :
    (running 0).Inv ∧ (running 0).noHostFault ∧ ∃ t, step (running 0) = .next t := by
  exact ⟨by constructor <;> decide, rfl, ⟨_, rfl⟩⟩

end Sys2Proof.Tests
end

section
/-! Dispatch of a decoded command, the header shadows after PARSE and DECODE, and the output of a sharpen sum. -/

namespace Sys2Proof.Machine

/-! ### Dispatch -/

/-- The engine's turn runs the command its latched word decodes to (R92, R93). -/
theorem engineTurn_of_decoded {s : State} {w : Word} {i : Instr} (hs : s.seq = .busy w) (hd : decodeWord w = .ok i) :
    engineTurn s = exec i s := by
  simp only [engineTurn, hs, runWord, hd]

/-- Settles O4: the step is the engine's turn, which runs the decoded command. -/
theorem stepRunsTheDecodedCommand : Obligations.StepRunsTheDecodedCommand := by
  intro s w i hwf _ hs hd
  constructor
  · intro rest hp
    rw [step_cons hwf hp]
    exact engineTurn_of_decoded (s := { s with pending := rest }) hs hd
  · intro hp
    rw [step_nil hwf hp]
    exact engineTurn_of_decoded hs hd

/-! ### The header shadows -/

/-- Settles O14: the shadows are the raw fields exactly where the length check of R102 passes. -/
theorem fileHeaderShadowsHoldTheRawFields : Obligations.FileHeaderShadowsHoldTheRawFields := by
  intro s i _ hi
  obtain ⟨t, ht, hfile, -⟩ := exec_headers hi s
  refine ⟨t, ht, fun hlen => ?_, fun (hlen : s.streamLen < 14) => by rw [hfile, if_pos hlen]⟩
  have hread : ¬ s.streamLen < 14 := Nat.not_lt.mpr hlen
  rw [hfile, if_neg hread]
  exact readFileHdr_bytes s

/-- Settles O15: the shadows are the raw fields exactly where the signature check of R103 and the length check of R104
pass. -/
theorem infoHeaderShadowsHoldTheRawFields : Obligations.InfoHeaderShadowsHoldTheRawFields := by
  intro s i _ hi
  obtain ⟨t, ht, -, hinfo⟩ := exec_headers hi s
  refine ⟨t, ht, fun hlen h0 h1 => ?_, fun hfail => ?_⟩
  · have hpass : ¬ (s.streamLen < 54 ∨ s.memRead 0 2 ≠ 19778) :=
      not_or.mpr ⟨Nat.not_lt.mpr hlen, not_not.mpr ((signature_iff s).mpr ⟨h0, h1⟩)⟩
    rw [hinfo, if_neg hpass]
    exact readInfoHdr_bytes s
  · have hstop : s.streamLen < 54 ∨ s.memRead 0 2 ≠ 19778 := by
      rwa [ne_eq, signature_iff, not_and_or]
    rw [hinfo, if_pos hstop]

/-! ### The sharpen output -/

/-- A byte made of an integer in range holds it. -/
theorem ofInt_byte_toNat {n : Int} (h0 : 0 ≤ n) (h1 : n ≤ 255) : ((BitVec.ofInt 8 n).toNat : Int) = n := by
  rw [BitVec.toNat_ofInt]
  omega

/-- WRAP stores the sum modulo 256 (R140). -/
theorem outSharp_wrap (n : Int) : ((outSharp false n).toNat : Int) = n % 256 :=
  ofInt_byte_toNat (by omega) (by omega)

/-- CLAMP stores the sum clamped to a byte's range (R140). -/
theorem outSharp_clamp (n : Int) : ((outSharp true n).toNat : Int) = max 0 (min 255 n) :=
  ofInt_byte_toNat (by omega) (by omega)

/-- Settles O31: both stored values are in a byte's range, and are the sum itself where the sum is. -/
theorem sharpenStoresWrappedOrClamped : Obligations.SharpenStoresWrappedOrClamped := by
  intro n
  refine ⟨outSharp_wrap n, outSharp_clamp n, fun h0 h1 => ⟨?_, ?_⟩⟩
  · rw [outSharp_wrap]
    omega
  · rw [outSharp_clamp]
    omega

end Sys2Proof.Machine
end

section
/-! Progress: a step stops only on a bad configuration, and a BUSY engine ends its command. -/

namespace Sys2Proof.Machine

/-! ### No step stops, and none changes the parameters -/

/-- The engine's turn keeps the parameters (R9, R45). -/
theorem engineTurn_params {s t : State} (h : engineTurn s = .next t) : t.params = s.params := by
  rcases engineTurn_frame h with ⟨-, rfl⟩ | ⟨-, ht⟩
  · rfl
  · rw [ht]

/-- A host access keeps the parameters (R9, R22). -/
theorem hostAccess_params (s : State) (a : Access) : (s.hostAccess a).params = s.params := by
  cases a with
  | read z a =>
    show (s.hostRead z a).params = _
    obtain ⟨r, e | ⟨-, e⟩ | ⟨-, -, -, e⟩⟩ := hostRead_effect s z a <;> rw [e] <;> rfl
  | write z a v =>
    show (s.hostWrite z a v).params = _
    rcases hostWrite_cases s z a v with ⟨-, e⟩ | ⟨-, -, -, e⟩ | ⟨-, -, e⟩ <;> rw [e]
    · rfl
    · rfl
    · show (s.writeTarget _ z v).params = _
      rcases writeTarget_cases s (decodeAddr a) z v with e | ⟨_, r, -, -, e⟩ | ⟨off, -, e⟩ | ⟨b, i, -, -, e⟩ <;> rw [e]
      · rw [writeReg_frame]
      · rw [writeInput_frame]
      · exact setBank_params _ _ _

/-- Every turn answers a next state with the same parameters (R51, R92, R170). -/
theorem takeTurn_next (u : Turn) (s : State) : ∃ t, takeTurn u s = .next t ∧ t.params = s.params := by
  cases u with
  | host a => exact ⟨_, rfl, hostAccess_params s a⟩
  | engine =>
    obtain ⟨t, ht⟩ := engineTurn_next s
    exact ⟨t, ht, engineTurn_params ht⟩
  | reset => exact ⟨_, rfl, rfl⟩

/-- Settles O51: a legal configuration takes a turn, and every turn answers a next state. -/
theorem stepStopsOnlyOnABadConfiguration : Obligations.StepStopsOnlyOnABadConfiguration := by
  intro s
  have hwf := s.params.wf_iff
  constructor
  · intro h
    have hlegal := hwf.mpr h
    cases hp : s.pending with
    | nil =>
      rw [step_nil hlegal hp]
      exact takeTurn_next .engine s
    | cons u rest =>
      rw [step_cons hlegal hp]
      exact takeTurn_next u { s with pending := rest }
  · intro h
    exact step_of_not_wf (Bool.eq_false_iff.mpr fun hlegal => h (hwf.mp hlegal))

/-! ### A BUSY engine ends its command -/

/-- The engine's turn ends the command of a BUSY engine: IDLE, with DONE set (R92). -/
theorem engineTurn_ends {s : State} (hs : s.seq ≠ .idle) :
    ∃ t, engineTurn s = .next t ∧ t.seq = .idle ∧ t.status.done = true := by
  obtain ⟨t, ht⟩ := engineTurn_next s
  rcases engineTurn_frame ht with ⟨hidle, -⟩ | ⟨-, hframe⟩
  · exact absurd hidle hs
  · exact ⟨t, ht, by rw [hframe], by rw [hframe]⟩

/-- A run of one step. -/
theorem run_one {s t : State} (h : step s = .next t) : Sys2Proof.core.run 1 s = .next t := by
  rw [run_succ h, run_zero]

/-- A BUSY engine ends within its pending turns and one, by induction on the turns: host accesses leave it BUSY, and the
first other turn, or the empty list, ends it (R92, R172). -/
theorem busy_ends_within (turns : List Turn) {s : State} {w : Word} (hwf : s.params.wf = true) (hs : s.seq = .busy w)
    (hp : s.pending = turns) :
    ∃ k ≤ turns.length + 1, ∃ t : State, Sys2Proof.core.run k s = .next t ∧ t.seq = .idle ∧
      (Turn.reset ∉ turns.take k → t.status.done = true) := by
  have hbusy : s.seq ≠ .idle := by rw [hs]; exact Seq.noConfusion
  induction turns generalizing s with
  | nil =>
    obtain ⟨t, ht, hidle, hdone⟩ := engineTurn_ends hbusy
    exact ⟨1, le_rfl, t, run_one (by rw [step_nil hwf hp, ht]), hidle, fun _ => hdone⟩
  | cons u rest ih =>
    have hstep := step_cons hwf hp
    cases u with
    | engine =>
      obtain ⟨t, ht, hidle, hdone⟩ := engineTurn_ends (s := { s with pending := rest }) hbusy
      exact ⟨1, by simp, t, run_one (hstep.trans ht), hidle, fun _ => hdone⟩
    | reset =>
      exact ⟨1, by simp, _, run_one hstep, rfl, fun hno => absurd (by simp) hno⟩
    | host a =>
      obtain ⟨hs', hparams, hpending⟩ := hostAccess_of_busy (s := { s with pending := rest }) hs a
      obtain ⟨k, hk, t, hrun, hidle, hdone⟩ :=
        ih (by rw [hparams]; exact hwf) hs' hpending (by rw [hs']; exact Seq.noConfusion)
      refine ⟨k + 1, by simpa using hk, t, by rw [run_succ hstep, hrun], hidle, fun hno => hdone fun hmem => hno ?_⟩
      exact List.mem_cons_of_mem _ hmem

/-- Settles O52, by induction on the pending turns. -/
theorem busyEngineEndsItsCommand : Obligations.BusyEngineEndsItsCommand :=
  fun _ _ hwf _ hs => busy_ends_within _ hwf hs rfl

end Sys2Proof.Machine
end

section
/-! The invariant: every stage of a command keeps it but for the flags of a running command, and so every turn keeps it. -/

namespace Sys2Proof.Machine

/-! ### The part of the invariant that the stages of a command keep -/

/-- The invariant without its clauses on a BUSY engine. Within its atomic step a command may set TRUNC and RANGE, so its
stages keep this part only (R91, R116, R140). -/
def State.Sound (s : State) : Prop := ({ s with seq := .idle } : State).Inv

theorem State.Inv.sound {s : State} (h : s.Inv) : s.Sound :=
  { h with
    busySync := (absurd rfl ·)
    busyFlags := (absurd rfl ·) }

/-- On an IDLE engine the sound part is the whole invariant. -/
theorem State.Sound.inv_of_idle {s : State} (h : s.Sound) (hs : s.seq = .idle) : s.Inv :=
  { h with
    busySync := (absurd hs ·)
    busyFlags := (absurd hs ·) }

/-- Every error code is a number from 1 to 12 (R150). -/
theorem EngineError.code_range (e : EngineError) : e.code.toNat ≤ 12 ∧ e.code ≠ 0 := by
  cases e <;> decide

theorem State.Sound.finish {s : State} (h : s.Sound) : s.finish.Inv :=
  { h with
    busySync := (absurd rfl ·)
    busyFlags := (absurd rfl ·) }

theorem State.Sound.raise {s : State} (h : s.Sound) (e : EngineError) : (s.raise e).Inv :=
  { h with
    code := e.code_range.1
    errCode := iff_of_true rfl e.code_range.2
    busySync := (absurd rfl ·)
    busyFlags := (absurd rfl ·) }

/-! ### The header parser -/

/-- A two-byte field leaves the upper half of its register 0 (R30, R31). -/
theorem le16_toNat_lt (s : State) (a : Nat) : (s.le16 a).toNat < 65536 := by
  rw [le16_toNat]
  exact memRead_lt s a 2

theorem State.Sound.setFileHdr {s : State} (h : s.Sound) : (s.setFileHdr s.readFileHdr).Sound :=
  { h with signature := le16_toNat_lt s 0 }

theorem State.Sound.withHeaders {s : State} (h : s.Sound) : s.withHeaders.Sound :=
  { h with
    signature := le16_toNat_lt s 0
    planes := le16_toNat_lt s 26
    bpp := le16_toNat_lt s 28 }

/-- A palette larger than PAL stops the parser before it is loaded (R107, R108). -/
theorem headerError_of_oversizedPalette {s : State} (hb : s.streamBpp ≤ 8) (hc : Config.palDepth < s.streamColors) :
    s.headerError ≠ none ∧ s.headerError ≠ some .seekError ∧ s.headerError ≠ some .allocationError := by
  rw [Config.palDepth] at hc
  have hcheck : ¬ (s.streamBpp = 1 ∨ s.streamBpp = 4 ∨ s.streamBpp = 8 ∨ s.streamBpp = 16 ∨ s.streamBpp = 24) ∨
      ((s.streamBpp = 1 ∧ s.streamColors ≠ 1) ∨ (s.streamBpp = 4 ∧ s.streamColors ≠ 16) ∨
        (s.streamBpp = 8 ∧ s.streamColors ≠ 256)) := by omega
  rcases hcheck with hdepth | hsize
  · simp only [State.headerError, if_pos hdepth]
    split_ifs <;> decide
  · simp only [State.headerError, if_pos hsize]
    split_ifs <;> decide

/-- The palette stage keeps PAL inside its 256 entries (R40, R111). -/
theorem State.Sound.withPalette {s : State} (h : s.Sound)
    (hfit : s.streamBpp ≤ 8 → s.streamColors ≤ Config.palDepth) : s.withPalette.Sound := by
  rw [State.withPalette]
  split
  · next hb =>
    exact { h.withHeaders with
      palWf := Memory.wf_fill h.palWf _ _ _
      palBelow := Memory.below_fill h.palBelow _ _ (by simpa using hfit hb) }
  · exact h.withHeaders

theorem State.Sound.parsed {s : State} (h : s.Sound) (he : s.headerError = none) : s.parsed.Sound :=
  have hpal := h.withPalette fun hb => Nat.not_lt.mp fun hc => (headerError_of_oversizedPalette hb hc).1 he
  { hpal with
    rowBytes := by
      show (BitVec.ofNat 32 (rowStride _ _)).toNat % 4 = 0
      rw [BitVec.toNat_ofNat, rowStride]
      omega }

theorem State.Sound.partlyParsed {s : State} (h : s.Sound) {e : EngineError} (he : s.headerError = some e) :
    (s.partlyParsed e).Sound := by
  rw [State.partlyParsed]
  split_ifs with _ _ hload
  · exact h
  · exact h.setFileHdr
  · refine h.withPalette fun hb => Nat.not_lt.mp fun hc => ?_
    obtain ⟨-, hseek, halloc⟩ := headerError_of_oversizedPalette hb hc
    rcases hload with rfl | rfl
    · exact hseek he
    · exact halloc he
  · exact h.withHeaders

/-! ### The row loop -/

theorem State.Sound.commitGrid {s : State} (h : s.Sound) : (commitGrid s).Sound := { h with }

/-- The row loop keeps bank 0 inside a grid that fits (R41, R113, R116, R125). -/
theorem State.Sound.unpackRows {s : State} (h : s.Sound) (hfit : s.hdrHeight * s.hdrWidth ≤ s.params.gridCap) :
    (unpackRows s 0 s.hdrHeight).Sound := by
  obtain ⟨j, hj, -, -, hrows⟩ := unpackRows_eq s 0 s.hdrHeight
  have hpix : (Machine.unpackRows s 0 s.hdrHeight).pix0 =
      Memory.fillRows (Memory.fillRows s.pix0 s.hdrWidth 0 s.rowPixel j) s.hdrWidth (0 + j) (fun _ _ => Pixel.black)
        (s.hdrHeight - (0 + j)) := by
    rw [hrows]
    split <;> rfl
  have hfull : (0 + j) * s.hdrWidth ≤ s.hdrHeight * s.hdrWidth := Nat.mul_le_mul_right _ (by omega)
  have hblack : 0 + j + (s.hdrHeight - (0 + j)) = s.hdrHeight := by omega
  rw [unpackRows_frame, hpix]
  exact { h with
    pix0Wf := Memory.wf_fillRows (Memory.wf_fillRows h.pix0Wf _ _ _ _) _ _ _ _
    pix0Below := Memory.below_fillRows (Memory.below_fillRows h.pix0Below _ _ _ (hfull.trans hfit)) _ _ _
      (by rw [hblack]; exact hfit)
    busyFlags := (absurd rfl ·) }

/-! ### The passes of CONV -/

/-- A pass keeps the written bank inside a grid that fits (R41, R132, R136). -/
theorem State.Sound.convPass {s : State} (h : s.Sound) (k : Kernel)
    (hfit : s.gridHeight * s.gridWidth ≤ s.params.gridCap) : (convPass k s).Sound := by
  have hrows : (0 + s.gridHeight) * s.gridWidth ≤ s.params.gridCap := by rwa [Nat.zero_add]
  cases hb : s.status.curBank with
  | bank0 =>
    rw [Machine.convPass, hb]
    exact { h with
      pix1Wf := Memory.wf_fillRows h.pix1Wf _ _ _ _
      pix1Below := Memory.below_fillRows h.pix1Below _ _ _ hrows
      busyFlags := (absurd rfl ·) }
  | bank1 =>
    rw [Machine.convPass, hb]
    exact { h with
      pix0Wf := Memory.wf_fillRows h.pix0Wf _ _ _ _
      pix0Below := Memory.below_fillRows h.pix0Below _ _ _ hrows
      busyFlags := (absurd rfl ·) }

theorem State.Sound.convPasses {s : State} (h : s.Sound) (k : Kernel)
    (hfit : s.gridHeight * s.gridWidth ≤ s.params.gridCap) (n : Nat) : (convPasses k s n).Sound := by
  induction n with
  | zero => exact h
  | succ n ih => exact ih.convPass k (by simpa using hfit)

/-! ### The engine's turn -/

/-- A command run in a sound state ends in one that meets the invariant (R92, R153). -/
theorem exec_inv {i : Instr} {s t : State} (h : s.Sound) (ht : exec i s = .next t) : t.Inv := by
  cases i with
  | nop =>
    cases ht
    exact h.finish
  | parse =>
    cases he : s.headerError with
    | none =>
      rw [exec_parse_none he] at ht
      cases ht
      exact (h.parsed he).finish
    | some e =>
      rw [exec_parse_some he] at ht
      cases ht
      exact (h.partlyParsed he).raise e
  | decode =>
    cases he : s.headerError with
    | none =>
      rw [exec_decode_none he] at ht
      cases ht
      obtain ⟨-, -, -, -, -, -, -, -, -, hcap⟩ := headerError_none he
      have hfit : s.parsed.hdrHeight * s.parsed.hdrWidth ≤ s.parsed.params.gridCap := by
        rw [parsed_hdrHeight, parsed_hdrWidth, Nat.mul_comm, parsed_eq]
        exact hcap
      exact ((h.parsed he).commitGrid.unpackRows hfit).finish
    | some e =>
      rw [exec_decode_some he] at ht
      cases ht
      exact (h.partlyParsed he).raise e
  | conv =>
    rw [exec_conv] at ht
    split_ifs at ht with hzero hbad <;> cases ht
    · exact h.raise _
    · exact h.raise _
    · have hfit : s.gridHeight * s.gridWidth ≤ s.params.gridCap := by
        rw [Nat.mul_comm]
        exact Nat.not_lt.mp fun hc => hbad (.inr (.inr hc))
      exact (h.convPasses _ hfit _).finish

theorem engineTurn_inv {s t : State} (h : s.Inv) (ht : engineTurn s = .next t) : t.Inv := by
  rcases engineTurn_cases ht with ⟨-, rfl⟩ | ⟨_, _, -, -, hexec⟩ | ⟨_, _, -, -, rfl⟩
  · exact h
  · exact exec_inv h.sound hexec
  · exact h.sound.raise _

/-! ### Reset -/

/-- Reset needs only the legal configuration, which it keeps (R9, R43). -/
theorem takeReset_inv {s : State} (hwf : s.params.wf = true) : s.takeReset.Inv where
  params := hwf
  inWf := Memory.wf_nil
  palWf := Memory.wf_nil
  pix0Wf := Memory.wf_nil
  pix1Wf := Memory.wf_nil
  inBelow := Memory.below_nil _
  palBelow := Memory.below_nil _
  pix0Below := Memory.below_nil _
  pix1Below := Memory.below_nil _
  inLen := Nat.zero_le _
  code := Nat.zero_le _
  errCode := iff_of_false Bool.false_ne_true (not_not.mpr rfl)
  busySync := (absurd rfl ·)
  busyFlags := (absurd rfl ·)
  rowBytes := rfl
  signature := Nat.zero_lt_succ _
  planes := Nat.zero_lt_succ _
  bpp := Nat.zero_lt_succ _

/-! ### The host's accesses -/

theorem State.Inv.respond {s : State} (h : s.Inv) (r : Response) : (s.respond r).Inv := { h with }

theorem State.Inv.takeHostFault {s : State} (h : s.Inv) : s.takeHostFault.Inv := { h with }

/-- The start effects are what the invariant says of a BUSY engine (R91, R176). -/
theorem State.Inv.issue {s : State} (h : s.Inv) (w : Word) : (s.issue w).Inv :=
  { h with
    code := Nat.zero_le _
    errCode := iff_of_false Bool.false_ne_true (not_not.mpr rfl)
    busySync := fun _ => rfl
    busyFlags := fun _ => ⟨rfl, rfl, rfl, rfl⟩ }

theorem State.Inv.writeCmd {s : State} (h : s.Inv) (v : Word) : (s.writeCmd v).Inv := by
  rcases writeCmd_cases s v with ⟨-, e⟩ | ⟨_, -, e⟩ <;> rw [e]
  · exact h.issue v
  · exact { h with }

/-- Clearing DONE and LOST leaves a running command's flags clear (R37). -/
theorem State.Inv.clearStatus {s : State} (h : s.Inv) (v : Word) :
    ({ s with status := s.status.clear v } : State).Inv :=
  { h with
    busyFlags := fun hbusy => by
      obtain ⟨hdone, herr, htrunc, hrange⟩ := h.busyFlags hbusy
      exact ⟨by simp [hdone], herr, htrunc, hrange⟩ }

/-- Only a host that need not treat the engine as BUSY finds it IDLE (R176). -/
theorem seq_idle_of_hostBusy {s : State} (h : s.hostBusy = false) : s.seq = .idle := by
  by_contra hbusy
  rw [hostBusy_of_busy (.inl hbusy)] at h
  cases h

theorem hostRead_inv {s : State} (h : s.Inv) (z : Size) (a : Word) : (s.hostRead z a).Inv := by
  obtain ⟨r, e | ⟨-, e⟩ | ⟨-, -, hidle, e⟩⟩ := hostRead_effect s z a <;> rw [e]
  · exact h.respond r
  · exact { h with }
  · have hsynced : ({ s with awaitSync := false } : State).Inv := { h with busySync := (absurd hidle ·) }
    exact hsynced.respond r

/-- A pixel written inside the capacity keeps its bank canonical and inside its window (R53). -/
theorem bank_inside_of_write {m m' : List (Nat × Pixel)} {cap : Nat} {p : Pixel} (hwf : Memory.wf m)
    (hbelow : Memory.below m cap) (h : m' = m ∨ ∃ i < cap, m' = Memory.set m i p) :
    Memory.wf m' ∧ Memory.below m' cap := by
  rcases h with rfl | ⟨i, hi, rfl⟩
  · exact ⟨hwf, hbelow⟩
  · exact ⟨Memory.wf_set hwf i p, Memory.below_set hbelow p hi⟩

/-- A write to a memory lists one more location inside its window, and IN_LEN is clamped (R27, R52, R53). -/
theorem hostWrite_inv {s : State} (h : s.Inv) (z : Size) (a v : Word) : (s.hostWrite z a v).Inv := by
  rcases hostWrite_effect s z a v with e | ⟨-, -, -, e⟩ | ⟨-, -, e⟩ | ⟨-, -, e⟩ | ⟨-, -, -, e⟩ |
    ⟨_, t, e, hframe, hin, hpix0, hpix1, hlen⟩ <;> rw [e]
  · exact h.respond _
  · exact h.takeHostFault
  · exact (h.writeCmd v).respond _
  · exact (h.clearStatus v).respond _
  · exact { h with }
  · obtain ⟨hwfIn, hbelowIn⟩ : Memory.wf t.inMem ∧ Memory.below t.inMem s.params.inCap := by
      rcases hin with hin | ⟨off, -, hin⟩ <;> rw [hin]
      · exact ⟨h.inWf, h.inBelow⟩
      · exact ⟨writeInput_wf h.inWf off v _, writeInput_below h.inBelow off v _⟩
    obtain ⟨hwf0, hbelow0⟩ := bank_inside_of_write h.pix0Wf h.pix0Below hpix0
    obtain ⟨hwf1, hbelow1⟩ := bank_inside_of_write h.pix1Wf h.pix1Below hpix1
    have hlen' : t.inLen.toNat ≤ s.params.inCap := by
      rcases hlen with hlen | hlen <;> rw [hlen]
      · exact h.inLen
      · rw [BitVec.toNat_ofNat]
        exact (Nat.mod_le _ _).trans (Nat.min_le_right _ _)
    refine State.Inv.respond ?_ _
    rw [hframe]
    exact { h with
      inWf := hwfIn
      inBelow := hbelowIn
      pix0Wf := hwf0
      pix0Below := hbelow0
      pix1Wf := hwf1
      pix1Below := hbelow1
      inLen := hlen' }

theorem hostAccess_inv {s : State} (h : s.Inv) (a : Access) : (s.hostAccess a).Inv := by
  cases a with
  | read z a => exact hostRead_inv h z a
  | write z a v => exact hostWrite_inv h z a v

/-! ### One step -/

/-- The invariant does not speak of the turns to come. -/
theorem State.Inv.setPending {s : State} (h : s.Inv) (rest : List Turn) : ({ s with pending := rest } : State).Inv :=
  { h with }

/-- Settles O54: each of the three turns keeps the invariant. -/
theorem stepKeepsTheInvariant : Obligations.StepKeepsTheInvariant := by
  intro s t h _ hstep
  obtain ⟨-, ⟨-, ht⟩ | ⟨rest, -, ht⟩ | ⟨rest, -, rfl⟩ | ⟨rest, a, -, rfl⟩⟩ := step_cases hstep
  · exact engineTurn_inv h ht
  · exact engineTurn_inv (h.setPending rest) ht
  · exact takeReset_inv h.params
  · exact hostAccess_inv (h.setPending rest) a

end Sys2Proof.Machine
end

section
/-! SEQ, DONE and CFG, and with them irq: what a step can do to them, said once by its cause, and how SEQ and irq move. -/

namespace Sys2Proof.Machine

/-! ### The causes -/

/-- The turn a step takes is the engine's: it is pending first, or nothing is pending (log 2). -/
abbrev State.engineNext (s : State) : Prop := s.pending = [] ∨ ∃ rest, s.pending = .engine :: rest

/-- How a step from s to t treats SEQ, DONE and CFG, one constructor per cause (R21, R37, R91, R92, R170, R177). -/
inductive ControlMove (s t : State) : Prop where
  | keeps (hseq : t.seq = s.seq) (hdone : t.status.done = s.status.done) (hcfg : t.cfg = s.cfg)
  | ends (hturn : s.engineNext) (hbusy : s.seq ≠ .idle) (hseq : t.seq = .idle) (hdone : t.status.done = true)
      (hcfg : t.cfg = s.cfg)
  | resets (rest : List Turn) (hp : s.pending = .reset :: rest) (hseq : t.seq = .idle) (hdone : t.status.done = false)
  | starts (rest : List Turn) (w : Word) (hp : s.pending = .host (.write .four 0x00000004 w) :: rest)
      (hidle : s.seq = .idle) (hseq : t.seq = .busy w) (hdone : t.status.done = false)
  | clears (rest : List Turn) (v : Word) (hp : s.pending = .host (.write .four 0x00000008 v) :: rest)
      (hseq : t.seq = s.seq) (hdone : t.status.done = (s.status.done && !v.getLsbD 1)) (hcfg : t.cfg = s.cfg)
  | configures (rest : List Turn) (v : Word) (hp : s.pending = .host (.write .four 0x0000000C v) :: rest)
      (hseq : t.seq = s.seq) (hdone : t.status.done = s.status.done) (hcfg : t.cfg = cfgOfWord v)

/-- The engine's turn, taken in a state that differs from s in the turns to come only. -/
theorem engineTurn_control {s t : State} {rest : List Turn} (hturn : s.engineNext)
    (h : engineTurn { s with pending := rest } = .next t) : ControlMove s t := by
  rcases engineTurn_frame h with ⟨-, rfl⟩ | ⟨hbusy, hframe⟩
  · exact .keeps rfl rfl rfl
  · exact .ends hturn hbusy (by rw [hframe]) (by rw [hframe]) (by rw [hframe])

theorem hostRead_control {s : State} (rest : List Turn) (z : Size) (a : Word) :
    ControlMove s (({ s with pending := rest } : State).hostRead z a) := by
  obtain ⟨r, e | ⟨-, e⟩ | ⟨-, -, -, e⟩⟩ := hostRead_effect { s with pending := rest } z a <;> rw [e] <;>
    exact .keeps rfl rfl rfl

theorem hostWrite_control {s : State} {rest : List Turn} {z : Size} {a v : Word}
    (hp : s.pending = .host (.write z a v) :: rest) :
    ControlMove s (({ s with pending := rest } : State).hostWrite z a v) := by
  rcases hostWrite_effect { s with pending := rest } z a v with e | ⟨-, -, -, e⟩ | ⟨rfl, rfl, e⟩ | ⟨rfl, rfl, e⟩ |
    ⟨rfl, rfl, -, e⟩ | ⟨-, u, e, hu, -⟩ <;> rw [e]
  · exact .keeps rfl rfl rfl
  · exact .keeps rfl rfl rfl
  · rcases writeCmd_cases { s with pending := rest } v with ⟨hidle, e⟩ | ⟨w, -, e⟩ <;> rw [e]
    · exact .starts rest v hp hidle rfl rfl
    · exact .keeps rfl rfl rfl
  · exact .clears rest v hp rfl rfl rfl
  · exact .configures rest v hp rfl rfl rfl
  · rw [hu]
    exact .keeps rfl rfl rfl

/-- Every step treats SEQ, DONE and CFG in one of the six ways. -/
theorem step_control {s t : State} (h : step s = .next t) : ControlMove s t := by
  obtain ⟨-, ⟨hp, ht⟩ | ⟨rest, hp, ht⟩ | ⟨rest, hp, rfl⟩ | ⟨rest, a, hp, rfl⟩⟩ := step_cases h
  · exact engineTurn_control (rest := s.pending) (.inl hp) ht
  · exact engineTurn_control (.inr ⟨rest, hp⟩) ht
  · exact .resets rest hp rfl rfl
  · cases a with
    | read z a => exact hostRead_control rest z a
    | write z a v => exact hostWrite_control hp

/-! ### SEQ -/

/-- Settles O12: of the causes, only a start, an end and a reset change SEQ. -/
theorem sequencerMovesOnlyAsTheSpecSays : Obligations.SequencerMovesOnlyAsTheSpecSays := by
  intro s t _ h hne
  cases step_control h with
  | keeps hseq => exact absurd hseq hne
  | ends hturn hbusy hseq =>
    exact .inr ⟨hbusy, hseq, hturn.imp_right fun ⟨rest, hp⟩ => ⟨rest, .inl hp⟩⟩
  | resets rest hp hseq =>
    exact .inr ⟨fun hidle => hne (hseq.trans hidle.symm), hseq, .inr ⟨rest, .inr hp⟩⟩
  | starts rest w hp hidle hseq => exact .inl ⟨hidle, rest, w, hp, hseq⟩
  | clears _ _ _ hseq => exact absurd hseq hne
  | configures _ _ _ hseq => exact absurd hseq hne

/-! ### irq -/

theorem irq_eq_true_iff (s : State) : s.irq = true ↔ s.status.done = true ∧ s.cfg.irqEn = true := by
  rw [State.irq, Bool.and_eq_true]

theorem irq_congr {s t : State} (hdone : t.status.done = s.status.done) (hcfg : t.cfg = s.cfg) : t.irq = s.irq := by
  rw [State.irq, State.irq, hdone, hcfg]

theorem irq_of_not_done {s : State} (h : s.status.done = false) : s.irq = false := by
  rw [State.irq, h, Bool.false_and]

/-- irq rises only by the end of a command or by a write of CFG (R38). -/
theorem irq_rise_cause {s t : State} (h : step s = .next t) (hlow : s.irq = false) (hhigh : t.irq = true) :
    (s.seq ≠ .idle ∧ t.seq = .idle ∧ s.cfg.irqEn = true) ∨
      (s.status.done = true ∧
        ∃ rest v, s.pending = .host (.write .four 0x0000000C v) :: rest ∧ v.getLsbD 0 = true) := by
  obtain ⟨hd, hen⟩ := (irq_eq_true_iff t).mp hhigh
  cases step_control h with
  | keeps _ hdone hcfg =>
    rw [irq_congr hdone hcfg, hlow] at hhigh
    cases hhigh
  | ends _ hbusy hseq _ hcfg => exact .inl ⟨hbusy, hseq, by rwa [hcfg] at hen⟩
  | resets _ _ _ hdone =>
    rw [hdone] at hd
    cases hd
  | starts _ _ _ _ _ hdone =>
    rw [hdone] at hd
    cases hd
  | clears _ _ _ _ hdone hcfg =>
    rw [hdone, Bool.and_eq_true] at hd
    rw [(irq_eq_true_iff s).mpr ⟨hd.1, by rwa [hcfg] at hen⟩] at hlow
    cases hlow
  | configures rest v hp _ hdone hcfg =>
    rw [hdone] at hd
    rw [hcfg] at hen
    exact .inr ⟨hd, rest, v, hp, hen⟩

/-- irq falls only by a write of STATUS, CFG or CMD, or by reset (R38). -/
theorem irq_fall_cause {s t : State} (h : step s = .next t) (hhigh : s.irq = true) (hlow : t.irq = false) :
    (∃ rest v, s.pending = .host (.write .four 0x00000008 v) :: rest ∧ v.getLsbD 1 = true) ∨
      (∃ rest v, s.pending = .host (.write .four 0x0000000C v) :: rest ∧ v.getLsbD 0 = false) ∨
      (s.seq = .idle ∧ ∃ rest w, s.pending = .host (.write .four 0x00000004 w) :: rest ∧ t.seq = .busy w) ∨
      ∃ rest, s.pending = .reset :: rest := by
  obtain ⟨hd, hen⟩ := (irq_eq_true_iff s).mp hhigh
  cases step_control h with
  | keeps _ hdone hcfg =>
    rw [irq_congr hdone hcfg, hhigh] at hlow
    cases hlow
  | ends _ _ _ hdone hcfg =>
    rw [State.irq, hdone, hcfg, hen] at hlow
    cases hlow
  | resets rest hp => exact .inr (.inr (.inr ⟨rest, hp⟩))
  | starts rest w hp hidle hseq => exact .inr (.inr (.inl ⟨hidle, rest, w, hp, hseq⟩))
  | clears rest v hp _ hdone hcfg =>
    rw [State.irq, hdone, hcfg, hd, hen] at hlow
    exact .inl ⟨rest, v, hp, by simpa using hlow⟩
  | configures rest v hp _ hdone hcfg =>
    rw [State.irq, hdone, hcfg, hd, Bool.true_and] at hlow
    exact .inr (.inl ⟨rest, v, hp, hlow⟩)

/-- The engine's turn raises irq at the end of a command where IRQ_EN is set (R38, R92). -/
theorem engineTurn_raises_irq {s : State} (hen : s.cfg.irqEn = true) (hbusy : s.seq ≠ .idle) :
    ∃ t, engineTurn s = .next t ∧ t.irq = true := by
  obtain ⟨t, ht⟩ := engineTurn_next s
  rcases engineTurn_frame ht with ⟨hidle, -⟩ | ⟨-, hframe⟩
  · exact absurd hidle hbusy
  · exact ⟨t, ht, (irq_eq_true_iff t).mpr ⟨by rw [hframe], by rw [hframe]; exact hen⟩⟩

theorem step_raises_irq {s : State} (hwf : s.params.wf = true) (hen : s.cfg.irqEn = true) (hbusy : s.seq ≠ .idle)
    (hturn : s.engineNext) : ∃ t, step s = .next t ∧ t.irq = true := by
  rcases hturn with hp | ⟨rest, hp⟩
  · rw [step_nil hwf hp]
    exact engineTurn_raises_irq hen hbusy
  · rw [step_cons hwf hp]
    exact engineTurn_raises_irq (s := { s with pending := rest }) hen hbusy

/-- A write of CFG that R177 allows moves irq with IRQ_EN (R25, R38). -/
theorem step_cfgWrite_irq {s : State} {v : Word} {rest : List Turn} (hwf : s.params.wf = true)
    (hb : s.hostBusy = false) (hp : s.pending = .host (.write .four 0x0000000C v) :: rest) :
    ∃ t, step s = .next t ∧ t.irq = (s.status.done && v.getLsbD 0) :=
  ⟨_, by rw [step_write hwf hp, hostWrite_cfg (s := { s with pending := rest }) hb], rfl⟩

/-- A write that clears DONE, a CMD write to an IDLE engine and reset leave irq low (R37, R38, R91, R170). -/
theorem step_lowers_irq {s : State} {v : Word} {rest : List Turn} (hwf : s.params.wf = true)
    (hcause : (s.pending = .host (.write .four 0x00000008 v) :: rest ∧ v.getLsbD 1 = true) ∨
      (s.seq = .idle ∧ s.pending = .host (.write .four 0x00000004 v) :: rest) ∨ s.pending = .reset :: rest) :
    ∃ t, step s = .next t ∧ t.irq = false := by
  rcases hcause with ⟨hp, hv⟩ | ⟨hidle, hp⟩ | hp
  · refine ⟨_, by rw [step_write hwf hp, hostWrite_status], irq_of_not_done ?_⟩
    show (s.status.done && !v.getLsbD 1) = false
    rw [hv, Bool.not_true, Bool.and_false]
  · refine ⟨_, by rw [step_write hwf hp, hostWrite_cmd], irq_of_not_done ?_⟩
    rcases writeCmd_cases { s with pending := rest } v with ⟨-, e⟩ | ⟨w, hbusy, -⟩
    · rw [e]
      rfl
    · rw [show s.seq = .busy w from hbusy] at hidle
      cases hidle
  · exact ⟨_, step_cons hwf hp, rfl⟩

/-- Settles O35: the causes of each move of irq, read off `ControlMove`, and each cause's effect. -/
theorem irqMovesOnlyAsTheSpecSays : Obligations.IrqMovesOnlyAsTheSpecSays := by
  refine ⟨irq_eq_true_iff, fun _ _ _ => irq_rise_cause, fun _ _ _ => irq_fall_cause,
    fun _ hwf _ => step_raises_irq hwf, ?_, fun _ _ _ hwf _ => step_lowers_irq hwf⟩
  intro s v rest hwf _ hidle hsync hp
  obtain ⟨t, ht, hirq⟩ := step_cfgWrite_irq hwf (hostBusy_of_idle hidle hsync) hp
  exact ⟨t, ht, fun hdone hv => by rw [hirq, hdone, hv]; rfl, fun hv => by rw [hirq, hv, Bool.and_false]⟩

end Sys2Proof.Machine
end

section
/-! The frames of the commands and the causes of a change of IN: the table of R45. -/

namespace Sys2Proof.Machine

/-! ### What each command may write, by the rows of R45's table -/

/-- NOP and PARSE write the shadows, PAL, ROW_BYTES and the flags of their end only (R94, R100). -/
theorem exec_frame_of_nop_or_parse {i : Instr} {s t : State} (hi : i = .nop ∨ i = .parse) (h : exec i s = .next t) :
    t = { s with
      seq := .idle
      status := { s.status with done := true, err := t.status.err, errCode := t.status.errCode }
      fileHdr := t.fileHdr
      infoHdr := t.infoHdr
      pal := t.pal
      rowBytes := t.rowBytes } := by
  rcases hi with rfl | rfl
  · cases h
    rfl
  · cases he : s.headerError with
    | none =>
      rw [exec_parse_none he] at h
      cases h
      rw [parsed_eq]
      rfl
    | some e =>
      rw [exec_parse_some he] at h
      cases h
      rw [partlyParsed_eq]
      rfl

/-- NOP and CONV write the banks, RANGE, CUR_BANK and the flags of their end only (R94, R144). -/
theorem exec_frame_of_nop_or_conv {i : Instr} {s t : State} (hi : i = .nop ∨ i = .conv) (h : exec i s = .next t) :
    t = { s with
      seq := .idle
      status := { s.status with
        done := true
        err := t.status.err
        errCode := t.status.errCode
        range := t.status.range
        curBank := t.status.curBank }
      pix0 := t.pix0
      pix1 := t.pix1 } := by
  rcases hi with rfl | rfl
  · cases h
    rfl
  · rw [exec_conv] at h
    split_ifs at h <;> cases h
    · rfl
    · rfl
    · rw [convPasses_frame]
      rfl

/-- DECODE leaves RANGE and bank 1 alone (R129). -/
theorem exec_decode_keeps_range_bank1 {s t : State} (h : exec .decode s = .next t) :
    t.status.range = s.status.range ∧ t.pix1 = s.pix1 := by
  cases he : s.headerError with
  | none =>
    rw [exec_decode_none he] at h
    cases h
    rw [unpackRows_frame, parsed_eq]
    exact ⟨rfl, rfl⟩
  | some e =>
    rw [exec_decode_some he] at h
    cases h
    rw [partlyParsed_eq]
    exact ⟨rfl, rfl⟩

/-- No command counts as a reset, so what was never written reads as before (R44, log 5). -/
theorem exec_keeps_resets {i : Instr} {s t : State} (h : exec i s = .next t) : t.resets = s.resets := by
  rw [exec_frame h]

/-- A bank with the same storage reads the same. -/
theorem pixel_congr_bank {s t : State} {b : Bank} (h : t.bank b = s.bank b) (hr : t.resets = s.resets) (i : Nat) :
    t.pixel b i = s.pixel b i := by
  rw [State.pixel, State.pixel, h, hr]

theorem exec_keeps_decode_results {i : Instr} {s t : State} (h : exec i s = .next t) (hi : i ≠ .decode) :
    t.status.trunc = s.status.trunc ∧ t.gridW = s.gridW ∧ t.gridH = s.gridH ∧ t.rowsDone = s.rowsDone := by
  have hrow : (i = .nop ∨ i = .parse) ∨ (i = .nop ∨ i = .conv) := by cases i <;> simp at hi ⊢
  rcases hrow with hrow | hrow
  · rw [exec_frame_of_nop_or_parse hrow h]
    exact ⟨rfl, rfl, rfl, rfl⟩
  · rw [exec_frame_of_nop_or_conv hrow h]
    exact ⟨rfl, rfl, rfl, rfl⟩

theorem exec_keeps_range_bank1 {i : Instr} {s t : State} (h : exec i s = .next t) (hi : i ≠ .conv) :
    t.status.range = s.status.range ∧ t.pix1 = s.pix1 := by
  have hrow : (i = .nop ∨ i = .parse) ∨ i = .decode := by cases i <;> simp at hi ⊢
  rcases hrow with hrow | rfl
  · rw [exec_frame_of_nop_or_parse hrow h]
    exact ⟨rfl, rfl⟩
  · exact exec_decode_keeps_range_bank1 h

/-- Settles O13: each row of R45's table is read off the frame of its commands. -/
theorem commandsKeepWhatTheyMayNotChange : Obligations.CommandsKeepWhatTheyMayNotChange := by
  intro i s t _ h
  have hresets := exec_keeps_resets h
  refine ⟨⟨fun a => inByte_congr (by rw [exec_frame h]) hresets a, ?_⟩, exec_keeps_decode_results h, fun hi => ?_,
    fun hi => ?_, fun hi => ?_⟩
  · rw [exec_frame h]
    exact ⟨rfl, rfl, rfl, rfl, rfl, rfl, rfl, rfl, rfl⟩
  · obtain ⟨hrange, hpix1⟩ := exec_keeps_range_bank1 h hi
    exact ⟨hrange, pixel_congr_bank hpix1 hresets⟩
  · have hframe := exec_frame_of_nop_or_parse hi h
    exact ⟨by rw [hframe], pixel_congr_bank (by rw [hframe]; rfl) hresets⟩
  · have hframe := exec_frame_of_nop_or_conv hi h
    exact ⟨by rw [hframe], by rw [hframe], by rw [hframe], palEntry_congr (by rw [hframe]) hresets⟩

/-! ### IN -/

/-- The engine's turn never writes IN (R129). -/
theorem engineTurn_inByte {s t : State} (h : engineTurn s = .next t) (a : Nat) : t.inByte a = s.inByte a := by
  rcases engineTurn_frame h with ⟨-, rfl⟩ | ⟨-, hframe⟩
  · rfl
  · exact inByte_congr (by rw [hframe]) (by rw [hframe]) a

theorem hostRead_inByte (s : State) (z : Size) (addr : Word) (a : Nat) :
    (s.hostRead z addr).inByte a = s.inByte a := by
  obtain ⟨r, e | ⟨-, e⟩ | ⟨-, -, -, e⟩⟩ := hostRead_effect s z addr <;> rw [e] <;> rfl

/-- A write changes a byte of IN only where its address lies in the input window's slot (R52, R55). -/
theorem hostWrite_inByte (s : State) (z : Size) (addr v : Word) (a : Nat) :
    (s.hostWrite z addr v).inByte a = s.inByte a ∨ (0x10000000 ≤ addr.toNat ∧ addr.toNat < 0x20000000) := by
  rcases hostWrite_effect s z addr v with e | ⟨-, -, -, e⟩ | ⟨-, -, e⟩ | ⟨-, -, e⟩ | ⟨-, -, -, e⟩ |
    ⟨-, t, e, hframe, hin | ⟨off, haddr, -⟩, -⟩
  · exact .inl (by rw [e]; rfl)
  · exact .inl (by rw [e]; rfl)
  · rcases writeCmd_cases s v with ⟨-, e'⟩ | ⟨w, -, e'⟩ <;> exact .inl (by rw [e, e']; rfl)
  · exact .inl (by rw [e]; rfl)
  · exact .inl (by rw [e]; rfl)
  · exact .inl (by rw [e]; exact inByte_congr hin (by rw [hframe]) a)
  · exact .inr (decodeAddr_eq_input haddr)

/-- Settles O50: of the turns, only a reset and a write into the input window's slot can change a byte of IN. -/
theorem onlyTheHostWritesTheInputWindow : Obligations.OnlyTheHostWritesTheInputWindow := by
  intro s t a _ h hne
  obtain ⟨-, ⟨-, ht⟩ | ⟨rest, -, ht⟩ | ⟨rest, hp, rfl⟩ | ⟨rest, access, hp, rfl⟩⟩ := step_cases h
  · exact absurd (engineTurn_inByte ht a) hne
  · exact absurd (engineTurn_inByte ht a) hne
  · exact .inr ⟨rest, hp⟩
  · cases access with
    | read z addr => exact absurd (hostRead_inByte { s with pending := rest } z addr a) hne
    | write z addr v =>
      rcases hostWrite_inByte { s with pending := rest } z addr v a with hsame | hslot
      · exact absurd hsame hne
      · exact .inl ⟨rest, z, addr, v, hp, hslot⟩

end Sys2Proof.Machine
end

section
/-! The register window: reads and writes of STATUS, of the named registers, and of what the host cannot write. -/

namespace Sys2Proof.Machine

/-! ### STATUS -/

/-- Bits 15:8 of STATUS are ERRCODE, bits 31:16 are 0 (R24). -/
theorem statusWord_upper (q : Seq) (st : Status) :
    (statusWord q st).extractLsb' 8 8 = st.errCode ∧ (statusWord q st).extractLsb' 16 16 = 0 := by
  constructor <;> apply BitVec.eq_of_getLsbD_eq <;> intro i hi <;>
    rw [BitVec.getLsbD_extractLsb', statusWord_getLsbD, if_neg (by omega), decide_eq_true hi, Bool.true_and]
  · rw [if_pos (by omega), Nat.add_sub_cancel_left]
  · rw [if_neg (by omega)]
    exact BitVec.getLsbD_zero.symm

theorem seq_isBusy_iff (q : Seq) : q.isBusy = true ↔ q ≠ .idle := by
  cases q <;> simp [Seq.isBusy]

theorem bank_bit_iff (b : Bank) : b.bit = true ↔ b = .bank1 := by
  cases b <;> simp [Bank.bit]

/-- Settles O33: the word is `statusWord`, whose bits are the flags. -/
theorem statusReadShowsTheFlags : Obligations.StatusReadShowsTheFlags := by
  intro s rest hwf _ hp
  have hbit := statusWord_getLsbD s.seq s.status
  obtain ⟨hcode, hzero⟩ := statusWord_upper s.seq s.status
  refine ⟨statusWord s.seq s.status, by rw [step_read hwf hp, hostRead_status], ?_, hbit 1, hbit 2, hbit 3, hbit 4, ?_,
    hbit 6, hbit 7, hcode, hzero⟩
  · rw [statusWord_busy]
    exact seq_isBusy_iff s.seq
  · rw [hbit 5]
    exact bank_bit_iff s.status.curBank

theorem Status.clear_eq (st : Status) (v : Word) :
    st.clear v = { st with
      done := (if v.getLsbD 1 then false else st.done)
      lost := (if v.getLsbD 6 then false else st.lost) } := by
  rw [Status.clear]
  cases v.getLsbD 1 <;> cases v.getLsbD 6 <;> simp

/-- Settles O34: a write of STATUS is defined in every state. -/
theorem statusWriteClearsDoneAndLost : Obligations.StatusWriteClearsDoneAndLost := by
  intro s v rest hwf _ hp
  rw [step_write hwf hp, hostWrite_status, Status.clear_eq]
  rfl

/-! ### The register window, when IDLE and synchronised -/

/-- Every register of the table stands at an aligned offset of the window (R22, R34). -/
theorem regTable_aligned {a : Word} {r : Reg} (h : regAt a.toNat = some r) : a.toNat % 4 = 0 ∧ a.toNat < 0x400 := by
  have key : ∀ p ∈ regTable, p.1 % 4 = 0 ∧ p.1 < 0x400 := by decide
  exact key _ (regAt_mem h)

/-- An aligned 32-bit access below 0x800 is no bus error (R54, R56). -/
theorem busError_low {a : Word} (hal : a.toNat % 4 = 0) (h : a.toNat < 0x800) : busError .four a = false :=
  busError_of_mapped hal (.inl ⟨rfl, h⟩)

/-- Only offset 8 synchronises. -/
theorem synced_of_ne {s : State} {off : Nat} (h : off ≠ 0x008) : s.synced (.register off) = s :=
  if_neg fun hs => h (Target.register.inj hs.1)

/-- A read of a register but STATUS returns what it holds and changes nothing (R22 to R33). -/
theorem hostRead_reg {s : State} {a : Word} {r : Reg} (hb : s.hostBusy = false) (hr : regAt a.toNat = some r)
    (hne : r ≠ .status) : s.hostRead .four a = s.respond (.read .okay (s.readReg r)) := by
  obtain ⟨hal, hlt⟩ := regTable_aligned hr
  have hoff : a.toNat ≠ 0x008 := fun h8 => by
    rw [h8] at hr
    exact hne (Option.some.inj hr).symm
  rw [hostRead_of_defined (busError_low hal (by omega)) (.inl hb), decodeAddr_register hlt, synced_of_ne hoff]
  simp only [State.readTarget, hr]

/-- A read of a reserved offset returns 0 and changes nothing (R34). -/
theorem hostRead_reserved {s : State} {a : Word} (hb : s.hostBusy = false) (hal : a.toNat % 4 = 0)
    (hlt : a.toNat < 0x400) (hr : regAt a.toNat = none) : s.hostRead .four a = s.respond (.read .okay 0) := by
  have hoff : a.toNat ≠ 0x008 := fun h8 => by
    rw [h8] at hr
    cases hr
  rw [hostRead_of_defined (busError_low hal (by omega)) (.inl hb), decodeAddr_register hlt, synced_of_ne hoff]
  simp only [State.readTarget, hr]

/-- A write of a register has the register's own effect (R35). -/
theorem hostWrite_reg {s : State} {a : Word} {r : Reg} (hb : s.hostBusy = false) (hr : regAt a.toNat = some r)
    (v : Word) : s.hostWrite .four a v = (s.writeReg r v).respond (.write .okay) := by
  obtain ⟨hal, hlt⟩ := regTable_aligned hr
  rw [hostWrite_of_defined v (busError_low hal (by omega)) (.inl hb), decodeAddr_register hlt]
  simp only [State.writeTarget, hr]

/-- A write below 0x800 to an offset that is not one of the writable registers' is ignored (R34, R35, R54). -/
theorem hostWrite_ignored {s : State} {a : Word} (hb : s.hostBusy = false) (hal : a.toNat % 4 = 0)
    (hlt : a.toNat < 0x800) (ho : a.toNat < 0x004 ∨ 0x01C < a.toNat) (v : Word) :
    s.hostWrite .four a v = s.respond (.write .okay) := by
  have hsame : s.writeTarget (decodeAddr a) .four v = s := by
    by_cases hreg : a.toNat < 0x400
    · rw [decodeAddr_register hreg, State.writeTarget]
      cases hr : regAt a.toNat with
      | none => rfl
      | some r => exact writeReg_readOnly hr ho s v
    · rw [decodeAddr_palette (by omega) hlt]
      rfl
  rw [hostWrite_of_defined v (busError_low hal hlt) (.inl hb), hsame]

/-- The CFG word as a number: IRQ_EN is bit 0, SHARP_CLAMP bit 1 (R25). -/
theorem cfgWord_eq_ofNat (c : Cfg) : cfgWord c = BitVec.ofNat 32 (c.irqEn.toNat + 2 * c.sharpClamp.toNat) := by
  obtain ⟨irqEn, sharpClamp⟩ := c
  cases irqEn <;> cases sharpClamp <;> rfl

/-- What a register holds does not depend on the turns to come. -/
theorem readReg_setPending (s : State) (rest : List Turn) (r : Reg) :
    ({ s with pending := rest } : State).readReg r = s.readReg r := by
  cases r <;> rfl

/-- Settles O36: each row of the statement's list is a register of the table and what it holds. -/
theorem registerReadsReturnTheRegisters : Obligations.RegisterReadsReturnTheRegisters := by
  intro s rest hwf _ hidle hsync p hmem hp
  have hrow : ∃ r, regAt p.1.toNat = some r ∧ r ≠ .status ∧ s.readReg r = p.2 := by
    simp only [← cfgWord_eq_ofNat, List.mem_cons, List.not_mem_nil, or_false] at hmem
    casesm* _ ∨ _ <;> subst p <;> exact ⟨_, rfl, nofun, rfl⟩
  obtain ⟨r, hr, hne, hval⟩ := hrow
  rw [step_read hwf hp, hostRead_reg (s := { s with pending := rest }) (hostBusy_of_idle hidle hsync) hr hne,
    readReg_setPending, hval]
  rfl

/-- Settles O37: each write is that of its register, and IN_LEN's clamp fits its 32 bits. -/
theorem registerWritesStore : Obligations.RegisterWritesStore := by
  intro s v rest hwf _ hidle hsync
  have hwrite {a : Word} {r : Reg} (hr : regAt a.toNat = some r) (hp : s.pending = .host (.write .four a v) :: rest) :
      step s = .next ((({ s with pending := rest } : State).writeReg r v).respond (.write .okay)) := by
    rw [step_write hwf hp, hostWrite_reg (s := { s with pending := rest }) (hostBusy_of_idle hidle hsync) hr]
  refine ⟨fun hp => ⟨hwrite (r := .cfg) rfl hp, cfgWord_cfgOfWord v⟩, hwrite (r := .param) rfl, fun hp => ?_,
    hwrite (r := .gridW) rfl, hwrite (r := .gridH) rfl⟩
  refine ⟨BitVec.ofNat 32 (min v.toNat s.params.inCap), ?_, hwrite (r := .inLen) rfl hp⟩
  rw [BitVec.toNat_ofNat]
  exact Nat.mod_eq_of_lt ((Nat.min_le_left _ _).trans_lt v.isLt)

/-- Settles O38: such a write leads to a read-only register, a reserved offset or the palette, which ignore it. -/
theorem readOnlyAndReservedIgnoreWrites : Obligations.ReadOnlyAndReservedIgnoreWrites := by
  intro s a rest hwf _ hidle hsync hal
  have hb : ({ s with pending := rest } : State).hostBusy = false := hostBusy_of_idle hidle hsync
  refine ⟨fun v hp hlt ho => ?_, fun hp hres => ?_⟩
  · rw [step_write hwf hp, hostWrite_ignored hb hal hlt ho]
    rfl
  · rw [step_read hwf hp, hostRead_reserved hb hal (by omega) (regAt_eq_none (by omega))]
    rfl

/-! ### Reset -/

/-- Settles O49: the step is `State.takeReset`, which R43 gives field by field. -/
theorem resetGivesEveryRegisterItsValue : Obligations.ResetGivesEveryRegisterItsValue := by
  intro s rest hwf _ hp
  refine ⟨_, step_cons hwf hp, rfl, statusWord_reset, cfgWord_eq_ofNat _, rfl, rfl, rfl, rfl, rfl, rfl, rfl, rfl, rfl,
    rfl, fun a => ⟨rfl, rfl, rfl, rfl⟩, rfl, fun a => ⟨rfl, rfl, fun b => ?_⟩⟩
  cases b <;> rfl

/-- Settles O53: the invariant says of the first reset what it says of any, but for the configuration, which is legal. -/
theorem resetMeetsTheInvariant : Obligations.ResetMeetsTheInvariant :=
  have hwf : State.reset.params.wf = true := by decide
  { takeReset_inv hwf with }

end Sys2Proof.Machine
end

section
/-! The memory slots of the bus: bus errors, IN, the pixel banks, the palette, what lies beyond a capacity; what reads and
the synchronisation mark may change. -/

namespace Sys2Proof.Machine

/-! ### Bus errors -/

/-- Only IN takes an access of size 1 or 2 (R53, R54, R56). -/
theorem takes_narrow {z : Size} {a : Word} (hz : z ≠ .four) (h : (decodeAddr a).takes z = true) :
    0x10000000 ≤ a.toNat ∧ a.toNat < 0x20000000 := by
  cases ht : decodeAddr a with
  | input off => exact decodeAddr_eq_input ht
  | unmapped =>
    rw [ht] at h
    cases h
  | register _ | palette _ | pixel _ _ =>
    rw [ht] at h
    exact absurd (of_decide_eq_true h) hz

/-- The converse of `busError_of_mapped`: misaligned, unmapped, or narrow outside the slot of IN (R51, R56, R60). -/
theorem busError_of_illegal {z : Size} {a : Word}
    (h : a.toNat % z.bytes ≠ 0 ∨ (0x800 ≤ a.toNat ∧ a.toNat < 0x10000000) ∨ 0x40000000 ≤ a.toNat ∨
      (z ≠ .four ∧ (a.toNat < 0x10000000 ∨ 0x20000000 ≤ a.toNat))) : busError z a = true := by
  by_contra hok
  rw [Bool.not_eq_true, busError_eq_false_iff] at hok
  obtain ⟨haligned, htakes⟩ := hok
  have hmapped (hun : (0x800 ≤ a.toNat ∧ a.toNat < 0x10000000) ∨ 0x40000000 ≤ a.toNat) : False := by
    rw [decodeAddr_unmapped hun] at htakes
    cases htakes
  rcases h with hmis | hgap | habove | ⟨hz, hout⟩
  · exact hmis haligned
  · exact hmapped (.inl hgap)
  · exact hmapped (.inr habove)
  · have hin := takes_narrow hz htakes
    omega

theorem step_read_error {s : State} {z : Size} {a : Word} {rest : List Turn} (hwf : s.params.wf = true)
    (he : busError z a = true) (hp : s.pending = .host (.read z a) :: rest) :
    step s = .next { s with pending := rest, response := some (.read .error 0) } := by
  rw [step_read hwf hp, hostRead_of_error _ he]
  rfl

theorem step_write_error {s : State} {z : Size} {a v : Word} {rest : List Turn} (hwf : s.params.wf = true)
    (he : busError z a = true) (hp : s.pending = .host (.write z a v) :: rest) :
    step s = .next { s with pending := rest, response := some (.write .error) } := by
  rw [step_write hwf hp, hostWrite_of_error _ _ he]
  rfl

/-- Settles O39: each of the four conditions is a bus error, which only responds. -/
theorem busErrorsHaveNoEffect : Obligations.BusErrorsHaveNoEffect := by
  intro s z a v rest hwf _ h
  have he := busError_of_illegal h
  exact ⟨step_read_error hwf he, step_write_error hwf he⟩

/-! ### Accesses to the memories, when IDLE and synchronised -/

/-- A read outside the register window does not synchronise. -/
theorem synced_of_not_register {s : State} {t : Target} (h : ∀ off, t ≠ .register off) : s.synced t = s :=
  if_neg fun hs => h _ hs.1

/-- What a target holds does not depend on the turns to come. -/
theorem readTarget_setPending (s : State) (rest : List Turn) (t : Target) (z : Size) :
    ({ s with pending := rest } : State).readTarget t z = s.readTarget t z := by
  cases t with
  | register off =>
    simp only [State.readTarget]
    cases regAt off with
    | none => rfl
    | some r => exact readReg_setPending s rest r
  | input off => cases z <;> rfl
  | pixel b i => cases b <;> rfl
  | palette _ | unmapped => rfl

/-- A read of a memory responds with what its target holds and changes nothing (R52 to R56). -/
theorem step_read_memory {s : State} {z : Size} {a : Word} {t : Target} {rest : List Turn} (hwf : s.params.wf = true)
    (hidle : s.seq = .idle) (hsync : s.awaitSync = false) (he : busError z a = false) (ht : decodeAddr a = t)
    (hmem : ∀ off, t ≠ .register off) (hp : s.pending = .host (.read z a) :: rest) :
    step s = .next { s with pending := rest, response := some (.read .okay (s.readTarget t z)) } := by
  have hb : ({ s with pending := rest } : State).hostBusy = false := hostBusy_of_idle hidle hsync
  rw [step_read hwf hp, hostRead_of_defined he (.inl hb), ht, synced_of_not_register hmem, readTarget_setPending]
  rfl

/-- A write has the effect its target gives it (R52 to R56). -/
theorem step_write_target {s : State} {z : Size} {a v : Word} {t : Target} {rest : List Turn}
    (hwf : s.params.wf = true) (hidle : s.seq = .idle) (hsync : s.awaitSync = false) (he : busError z a = false)
    (ht : decodeAddr a = t) (hp : s.pending = .host (.write z a v) :: rest) :
    step s = .next ((({ s with pending := rest } : State).writeTarget t z v).respond (.write .okay)) := by
  have hb : ({ s with pending := rest } : State).hostBusy = false := hostBusy_of_idle hidle hsync
  rw [step_write hwf hp, hostWrite_of_defined v he (.inl hb), ht]

/-! ### IN -/

theorem bytes_le_four (z : Size) : z.bytes ≤ 4 := by
  cases z <;> decide

/-- An aligned address inside the slot of IN leads to its byte (R52, R55). -/
theorem input_address {z : Size} {off : Nat} (hal : off % z.bytes = 0) (hoff : off < 0x10000000) :
    busError z (BitVec.ofNat 32 (0x10000000 + off)) = false ∧
      decodeAddr (BitVec.ofNat 32 (0x10000000 + off)) = .input off := by
  have ha : (BitVec.ofNat 32 (0x10000000 + off)).toNat = 0x10000000 + off := by
    rw [BitVec.toNat_ofNat]
    omega
  have hslot : 0x10000000 % z.bytes = 0 := by cases z <;> rfl
  constructor
  · refine busError_of_mapped ?_ (.inr (.inl (by omega)))
    rw [ha, Nat.add_mod, hslot, hal, Nat.zero_mod]
  · rw [decodeAddr_input (by omega) (by omega), ha, Nat.add_sub_cancel_left]

/-- IN after a write inside its capacity, byte by byte (R52, R59). -/
theorem writeInput_inByte {s : State} {off n : Nat} (h : off + n ≤ s.params.inCap) (v : Word) (a : Nat) :
    (s.writeInput off v n).inByte a =
      if off ≤ a ∧ a < off + n then v.extractLsb' (8 * (a - off)) 8 else s.inByte a := by
  have hresets : (s.writeInput off v n).resets = s.resets := by rw [writeInput_frame]
  have hcap : (off ≤ a ∧ a < off + n ∧ a < s.params.inCap) ↔ (off ≤ a ∧ a < off + n) := by omega
  simp only [State.inByte, writeInput_get?, hcap, hresets]
  split <;> rfl

/-- Byte k of a little-endian value is the byte at address k (R13, R59). -/
theorem memRead_byte (s : State) {a n k : Nat} (hk : k < n) :
    s.memRead a n / 2 ^ (8 * k) % 256 = (s.inByte (a + k)).toNat := by
  induction n generalizing a k with
  | zero => omega
  | succ n ih =>
    have hbyte := (s.inByte a).isLt
    rw [State.memRead]
    cases k with
    | zero => simpa using hbyte
    | succ k =>
      have hpow : 2 ^ (8 * (k + 1)) = 256 * 2 ^ (8 * k) := by rw [Nat.mul_succ, Nat.pow_add, Nat.mul_comm]
      have hrest : ((s.inByte a).toNat + 256 * s.memRead (a + 1) n) / 256 = s.memRead (a + 1) n := by omega
      rw [hpow, ← Nat.div_div_eq_div_mul, hrest, ih (by omega), Nat.add_right_comm, Nat.add_assoc]

/-- A value of at most four bytes fits a bus word. -/
theorem memRead_word_toNat (s : State) (a : Nat) {n : Nat} (hn : n ≤ 4) :
    (BitVec.ofNat 32 (s.memRead a n)).toNat = s.memRead a n := by
  rw [BitVec.toNat_ofNat]
  exact Nat.mod_eq_of_lt ((memRead_lt s a n).trans_le (Nat.pow_le_pow_right (by decide) (by omega)))

/-- The lanes of the word a read of IN returns (R59). -/
theorem memRead_word_lane (s : State) (a : Nat) {n k : Nat} (hn : n ≤ 4) (hk : k < n) :
    (BitVec.ofNat 32 (s.memRead a n)).extractLsb' (8 * k) 8 = s.inByte (a + k) := by
  apply BitVec.eq_of_toNat_eq
  rw [BitVec.extractLsb'_toNat, memRead_word_toNat s a hn, Nat.shiftRight_eq_div_pow]
  exact memRead_byte s hk

/-- Settles O40: the write is `writeInput`, the read `memRead`, both byte by byte. -/
theorem inputWindowMovesBytesLittleEndian : Obligations.InputWindowMovesBytesLittleEndian := by
  intro s z off rest hwf _ hidle hsync hal hcap
  obtain ⟨-, -, hmax⟩ := s.params.wf_iff.mp hwf
  have hbytes : 0 < z.bytes := by cases z <;> decide
  obtain ⟨he, ht⟩ := input_address hal (show off < 0x10000000 by omega)
  refine ⟨fun v hp => ⟨_, step_write_target hwf hidle hsync he ht hp, ?_, ?_⟩, fun hp => ?_⟩
  · show (State.writeInput _ _ _ _).respond _ = _
    rw [writeInput_frame]
    rfl
  · exact writeInput_inByte (s := { s with pending := rest }) hcap v
  · refine ⟨BitVec.ofNat 32 (s.memRead off z.bytes), ?_, fun k => memRead_word_lane s off (bytes_le_four z), ?_⟩
    · rw [step_read_memory hwf hidle hsync he ht nofun hp, State.readTarget, readInput_eq hcap]
    · rw [memRead_word_toNat s off (bytes_le_four z)]
      exact memRead_lt s off z.bytes

/-! ### The pixel banks -/

/-- The address the host uses for pixel i of a bank (R53, R55). -/
abbrev pixelAddress (b : Bank) (i : Nat) : Word :=
  BitVec.ofNat 32 ((if b = .bank0 then 0x20000000 else 0x30000000) + 4 * i)

theorem pixelAddress_toNat (b : Bank) {i : Nat} (hi : i < 0x4000000) :
    (pixelAddress b i).toNat = (if b = .bank0 then 0x20000000 else 0x30000000) + 4 * i := by
  rw [pixelAddress, BitVec.toNat_ofNat]
  split <;> omega

/-- A pixel's address is aligned, inside its bank's slot, and leads to the pixel (R53, R55). -/
theorem pixel_address (b : Bank) {i : Nat} (hi : i < 0x4000000) :
    (pixelAddress b i).toNat % 4 = 0 ∧
      (0x20000000 ≤ (pixelAddress b i).toNat ∧ (pixelAddress b i).toNat < 0x40000000) ∧
      decodeAddr (pixelAddress b i) = .pixel b i := by
  have ha := pixelAddress_toNat b hi
  refine ⟨by split at ha <;> omega, by split at ha <;> omega, ?_⟩
  cases b with
  | bank0 =>
    rw [if_pos rfl] at ha
    rw [decodeAddr_bank0 (by omega) (by omega), ha, Nat.add_sub_cancel_left, Nat.mul_div_cancel_left i (by decide)]
  | bank1 =>
    rw [if_neg nofun] at ha
    rw [decodeAddr_bank1 (by omega) (by omega), ha, Nat.add_sub_cancel_left, Nat.mul_div_cancel_left i (by decide)]

/-- Both banks after one pixel is written, pixel by pixel (R41, R53). -/
theorem pixel_setBank_set (s : State) (b : Bank) (i : Nat) (p : Pixel) (c : Bank) (j : Nat) :
    (s.setBank b (Memory.set (s.bank b) i p)).pixel c j = if c = b ∧ j = i then p else s.pixel c j := by
  by_cases hc : c = b
  · subst hc
    rw [State.pixel, bank_setBank_self, Memory.get?_set, setBank_resets]
    by_cases hj : j = i
    · rw [if_pos hj, if_pos ⟨rfl, hj⟩]
      rfl
    · rw [if_neg hj, if_neg fun h => hj h.2]
      rfl
  · rw [if_neg fun h => hc h.1, pixel_congr_bank (bank_setBank_ne s _ hc) (setBank_resets s b _)]

/-- Settles O41: a pixel's word is `pixelWord`, a write of it stores `wordPixel`, and a narrow access is a bus error. -/
theorem pixelWindowsHoldOnePixelAWord : Obligations.PixelWindowsHoldOnePixelAWord := by
  intro s b i rest hwf _ hidle hsync hi
  obtain ⟨⟨-, hmax⟩, -⟩ := s.params.wf_iff.mp hwf
  obtain ⟨hal, hslot, ht⟩ := pixel_address b (show i < 0x4000000 by omega)
  have he : busError .four (pixelAddress b i) = false := busError_of_mapped hal (.inr (.inr ⟨rfl, hslot⟩))
  have hnarrow {z : Size} (hz : z ≠ .four) : busError z (pixelAddress b i) = true :=
    busError_of_illegal (.inr (.inr (.inr ⟨hz, .inr hslot.1⟩)))
  refine ⟨fun v hp => ?_, fun hp => ?_, fun z hz => step_read_error hwf (hnarrow hz),
    fun z hz v => step_write_error hwf (hnarrow hz)⟩
  · have hstep := step_write_target hwf hidle hsync he ht hp
    rw [State.writeTarget, if_pos hi] at hstep
    have hpixel := pixel_setBank_set { s with pending := rest } b i (wordPixel v)
    refine ⟨_, hstep, by cases b <;> rfl, (hpixel b i).trans (if_pos ⟨rfl, rfl⟩), fun c j hne => ?_⟩
    refine (hpixel c j).trans ((if_neg ?_).trans (pixel_congr rfl rfl rfl c j))
    rwa [not_and_or]
  · refine ⟨pixelWord (s.pixel b i), ?_, pixelWord_bytes _⟩
    rw [step_read_memory hwf hidle hsync he ht nofun hp, State.readTarget, if_pos hi]

/-! ### The palette -/

/-- An entry's address is aligned, inside the palette window, and leads to the entry (R54, R55). -/
theorem palette_address {i : Nat} (hi : i < 256) :
    (BitVec.ofNat 32 (0x400 + 4 * i)).toNat % 4 = 0 ∧ (BitVec.ofNat 32 (0x400 + 4 * i)).toNat < 0x800 ∧
      decodeAddr (BitVec.ofNat 32 (0x400 + 4 * i)) = .palette i := by
  have ha : (BitVec.ofNat 32 (0x400 + 4 * i)).toNat = 0x400 + 4 * i := by
    rw [BitVec.toNat_ofNat]
    omega
  refine ⟨by omega, by omega, ?_⟩
  rw [decodeAddr_palette (by omega) (by omega), ha, Nat.add_sub_cancel_left, Nat.mul_div_cancel_left i (by decide)]

/-- Settles O42: an entry's word is `pixelWord`, a write's target ignores it, and a narrow access is a bus error. -/
theorem paletteWindowIsReadOnly : Obligations.PaletteWindowIsReadOnly := by
  intro s i rest hwf _ hidle hsync hi a
  obtain ⟨hal, hlt, ht⟩ : a.toNat % 4 = 0 ∧ a.toNat < 0x800 ∧ decodeAddr a = .palette i := palette_address hi
  have he : busError .four a = false := busError_low hal hlt
  have hnarrow {z : Size} (hz : z ≠ .four) : busError z a = true :=
    busError_of_illegal (.inr (.inr (.inr ⟨hz, .inl (by omega)⟩)))
  exact ⟨fun hp => ⟨_, step_read_memory hwf hidle hsync he ht nofun hp, pixelWord_bytes (s.palEntry i)⟩,
    fun v => step_write_target hwf hidle hsync he ht, fun z hz => step_read_error hwf (hnarrow hz),
    fun z hz v => step_write_error hwf (hnarrow hz)⟩

/-! ### Beyond a capacity -/

/-- The target lies in the slot of IN or of a pixel bank, beyond the capacity (R56). -/
def Target.beyond (t : Target) (p : Config.Params) : Prop :=
  match t with
  | .input off => p.inCap ≤ off
  | .pixel _ i => p.gridCap ≤ i
  | .register _ | .palette _ | .unmapped => False

/-- The addresses of R56 lead beyond their slot's capacity. -/
theorem decodeAddr_beyond {p : Config.Params} {a : Word}
    (h : (0x10000000 + p.inCap ≤ a.toNat ∧ a.toNat < 0x20000000) ∨
      (0x20000000 + 4 * p.gridCap ≤ a.toNat ∧ a.toNat < 0x30000000) ∨
      (0x30000000 + 4 * p.gridCap ≤ a.toNat ∧ a.toNat < 0x40000000)) : (decodeAddr a).beyond p := by
  rcases h with ⟨hlow, hhigh⟩ | ⟨hlow, hhigh⟩ | ⟨hlow, hhigh⟩
  · rw [decodeAddr_input (by omega) hhigh, Target.beyond]
    omega
  · rw [decodeAddr_bank0 (by omega) hhigh, Target.beyond]
    omega
  · rw [decodeAddr_bank1 (by omega) hhigh, Target.beyond]
    omega

theorem ne_register_of_beyond {t : Target} {p : Config.Params} (h : t.beyond p) (off : Nat) :
    t ≠ .register off := by
  rintro rfl
  exact h

/-- Beyond the capacity a read returns 0 (R56). -/
theorem readTarget_beyond {s : State} {t : Target} (h : t.beyond s.params) (z : Size) : s.readTarget t z = 0 := by
  cases t with
  | input off => exact congrArg (BitVec.ofNat 32) (readInput_beyond h z.bytes)
  | pixel b i => exact if_neg (Nat.not_lt.mpr h)
  | register _ | palette _ | unmapped => exact h.elim

/-- Beyond the capacity a write is ignored (R56). -/
theorem writeTarget_beyond {s : State} {t : Target} (h : t.beyond s.params) (z : Size) (v : Word) :
    s.writeTarget t z v = s := by
  cases t with
  | input off => exact writeInput_beyond h v z.bytes
  | pixel b i => exact if_neg (Nat.not_lt.mpr h)
  | register _ | palette _ | unmapped => exact h.elim

/-- Settles O43: such an address leads beyond its slot's capacity. -/
theorem beyondCapacityReadsZeroIgnoresWrites : Obligations.BeyondCapacityReadsZeroIgnoresWrites := by
  intro s z a rest hwf _ hidle hsync hal h
  have he : busError z a = false := by
    refine busError_of_mapped hal (.inr ?_)
    rcases h with ⟨hlow, hhigh⟩ | ⟨hz, hlow, hhigh⟩ | ⟨hz, hlow, hhigh⟩
    · exact .inl ⟨by omega, hhigh⟩
    · exact .inr ⟨hz, by omega, by omega⟩
    · exact .inr ⟨hz, by omega, hhigh⟩
  have hbeyond : (decodeAddr a).beyond s.params := decodeAddr_beyond (h.imp_right (Or.imp And.right And.right))
  constructor
  · intro hp
    rw [step_read_memory hwf hidle hsync he rfl (ne_register_of_beyond hbeyond) hp,
      readTarget_beyond hbeyond]
  · intro v hp
    rw [step_write_target hwf hidle hsync he rfl hp, writeTarget_beyond (s := { s with pending := rest }) hbeyond]
    rfl

/-! ### Reads -/

/-- Settles O44: a read responds, and may draw a free value or synchronise. -/
theorem readsHaveNoSideEffect : Obligations.ReadsHaveNoSideEffect := by
  intro s z a rest hwf _ hp
  refine ⟨_, step_read hwf hp, ?_⟩
  obtain ⟨r, e | ⟨-, e⟩ | ⟨-, -, -, e⟩⟩ := hostRead_effect { s with pending := rest } z a <;> rw [e] <;> rfl

/-! ### The synchronisation mark -/

/-- The engine's turn does not move the mark (R176). -/
theorem engineTurn_awaitSync {s t : State} (h : engineTurn s = .next t) : t.awaitSync = s.awaitSync := by
  rcases engineTurn_frame h with ⟨-, rfl⟩ | ⟨-, hframe⟩
  · rfl
  · rw [hframe]

/-- Of the reads, only that of STATUS with BUSY = 0 moves the mark (R63). -/
theorem hostRead_awaitSync (s : State) (z : Size) (a : Word) :
    (s.hostRead z a).awaitSync = s.awaitSync ∨
      ((s.hostRead z a).awaitSync = false ∧ z = .four ∧ a = 0x00000008 ∧ s.seq = .idle) := by
  obtain ⟨r, e | ⟨-, e⟩ | ⟨hz, ha, hidle, e⟩⟩ := hostRead_effect s z a <;> rw [e]
  · exact .inl rfl
  · exact .inl rfl
  · exact .inr ⟨rfl, hz, ha, hidle⟩

/-- Of the writes, only one of CMD that starts a command moves the mark (R176). -/
theorem hostWrite_awaitSync (s : State) (z : Size) (a v : Word) :
    (s.hostWrite z a v).awaitSync = s.awaitSync ∨
      ((s.hostWrite z a v).awaitSync = true ∧ z = .four ∧ a = 0x00000004 ∧ s.seq = .idle) := by
  rcases hostWrite_effect s z a v with e | ⟨-, -, -, e⟩ | ⟨hz, ha, e⟩ | ⟨-, -, e⟩ | ⟨-, -, -, e⟩ | ⟨-, u, e, hu, -⟩ <;>
    rw [e]
  · exact .inl rfl
  · exact .inl rfl
  · rcases writeCmd_cases s v with ⟨hidle, e⟩ | ⟨_, -, e⟩ <;> rw [e]
    · exact .inr ⟨rfl, hz, ha, hidle⟩
    · exact .inl rfl
  · exact .inl rfl
  · exact .inl rfl
  · exact .inl (by rw [hu]; rfl)

/-- A step keeps the mark, or moves it by one of its causes (R63, R170, R176). -/
theorem step_awaitSync {s t : State} (h : step s = .next t) :
    t.awaitSync = s.awaitSync ∨
      (t.awaitSync = false ∧ ((s.seq = .idle ∧ ∃ rest, s.pending = .host (.read .four 0x00000008) :: rest) ∨
        ∃ rest, s.pending = .reset :: rest)) ∨
      (t.awaitSync = true ∧ s.seq = .idle ∧ ∃ rest w, s.pending = .host (.write .four 0x00000004 w) :: rest) := by
  obtain ⟨-, ⟨-, ht⟩ | ⟨rest, -, ht⟩ | ⟨rest, hp, rfl⟩ | ⟨rest, access, hp, rfl⟩⟩ := step_cases h
  · exact .inl (engineTurn_awaitSync ht)
  · exact .inl (engineTurn_awaitSync (s := { s with pending := rest }) ht)
  · exact .inr (.inl ⟨rfl, .inr ⟨rest, hp⟩⟩)
  · cases access with
    | read z a =>
      rcases hostRead_awaitSync { s with pending := rest } z a with hkeep | ⟨hfalse, rfl, rfl, hidle⟩
      · exact .inl hkeep
      · exact .inr (.inl ⟨hfalse, .inl ⟨hidle, rest, hp⟩⟩)
    | write z a v =>
      rcases hostWrite_awaitSync { s with pending := rest } z a v with hkeep | ⟨htrue, rfl, rfl, hidle⟩
      · exact .inl hkeep
      · exact .inr (.inr ⟨htrue, hidle, rest, v, hp⟩)

/-- Settles O48: each direction of the mark has the causes `step_awaitSync` gives it. -/
theorem onlyTheStatusReadSynchronises : Obligations.OnlyTheStatusReadSynchronises := by
  intro s t _ h
  rcases step_awaitSync h with hkeep | ⟨hfalse, hcause⟩ | ⟨htrue, hcause⟩
  · rw [hkeep]
    exact ⟨fun h1 h0 => by simp [h1] at h0, fun h0 h1 => by simp [h0] at h1⟩
  · exact ⟨fun _ _ => hcause, fun _ h1 => by simp [hfalse] at h1⟩
  · exact ⟨fun _ h0 => by simp [htrue] at h0, fun _ _ => hcause⟩

end Sys2Proof.Machine
end

section
/-! The command word: which words decode, to which command, and what the engine does with the others. -/

namespace Sys2Proof.Machine

/-! ### The decoder -/

/-- What the decoder answers, once: the operation code's command, or one of the two names of an illegal word (R71, R73). -/
theorem decodeWord_cases (w : Word) :
    (∃ i, w.toNat / 16 = 0 ∧ opInstr (opField w) = some i ∧ decodeWord w = .ok i) ∨
      (w.toNat / 16 = 0 ∧ 4 ≤ w.toNat % 16 ∧ decodeWord w = .error (.reservedOp (opField w))) ∨
      (w.toNat / 16 ≠ 0 ∧ decodeWord w = .error .reservedBits) := by
  have hrsvd : rsvdField w = 0 ↔ w.toNat / 16 = 0 := by rw [← BitVec.toNat_inj, rsvdField_toNat]; rfl
  rw [← hrsvd, ← opField_toNat, decodeWord]
  by_cases h : rsvdField w = 0
  · rw [if_pos h]
    cases hop : opInstr (opField w) with
    | some i => exact .inl ⟨i, h, rfl, rfl⟩
    | none => exact .inr (.inl ⟨h, opInstr_eq_none.mp hop, rfl⟩)
  · rw [if_neg h]
    exact .inr (.inr ⟨hrsvd.not.mp h, rfl⟩)

theorem decodeWord_encode (i : Instr) : decodeWord (encode i) = .ok i := by
  cases i <;> rfl

/-- A word that decodes has RSVD 0 and its command's operation code, so it is its command's word (R71, R72). -/
theorem eq_encode_of_decodeWord {w : Word} {i : Instr} (h : decodeWord w = .ok i) : w = encode i := by
  rcases decodeWord_cases w with ⟨j, hrsvd, hop, hd⟩ | ⟨-, -, hd⟩ | ⟨-, hd⟩ <;> rw [hd] at h <;> cases h
  have hcode := opInstr_some hop
  rw [opField_toNat] at hcode
  exact BitVec.eq_of_toNat_eq (by omega)

theorem decodeWord_eq_error_iff (w : Word) :
    (∃ e, decodeWord w = .error e) ↔ (4 ≤ w.toNat % 16 ∨ w.toNat / 16 ≠ 0) := by
  rcases decodeWord_cases w with ⟨i, hrsvd, hop, hd⟩ | ⟨-, hop, hd⟩ | ⟨hrsvd, hd⟩
  · have hlegal : ¬ 4 ≤ w.toNat % 16 := by
      rw [← opField_toNat, ← opInstr_eq_none, hop]
      exact Option.some_ne_none i
    exact iff_of_false (fun ⟨e, he⟩ => nomatch hd.symm.trans he) (not_or.mpr ⟨hlegal, not_not.mpr hrsvd⟩)
  · exact iff_of_true ⟨_, hd⟩ (.inl hop)
  · exact iff_of_true ⟨_, hd⟩ (.inr hrsvd)

/-- Settles O1: four encodings, then four illegal words under their two names. -/
theorem wordsOfTheOpcodeMapDecode : Obligations.WordsOfTheOpcodeMapDecode :=
  ⟨decodeWord_encode .nop, decodeWord_encode .parse, decodeWord_encode .decode, decodeWord_encode .conv,
    rfl, rfl, rfl, rfl⟩

/-- Settles O2: each encoding decodes, and a word that decodes has the fields of its command's word. -/
theorem decodeAndEncodeAgree : Obligations.DecodeAndEncodeAgree :=
  ⟨decodeWord_encode, fun _ _ => eq_encode_of_decodeWord⟩

/-- Settles O3: the decoder's two rejections are these two conditions. -/
theorem illegalWordsAreTheReservedOnes : Obligations.IllegalWordsAreTheReservedOnes :=
  decodeWord_eq_error_iff

/-! ### The illegal command -/

/-- The engine's turn takes the illegal command where its latched word does not decode (R93, R95). -/
theorem engineTurn_of_illegal {s : State} {w : Word} {e : Illegal} (hs : s.seq = .busy w) (hd : decodeWord w = .error e) :
    engineTurn s = .next (s.raise .illegalCommand) := by
  simp only [engineTurn, hs, runWord, hd, execIllegal]

/-- Settles O10: a reserved word does not decode, so the step is the engine's turn that raises IllegalCommand. -/
theorem illegalWordEndsWithIllegalCommand : Obligations.IllegalWordEndsWithIllegalCommand := by
  intro s w hwf _ hs hreserved
  obtain ⟨e, hd⟩ := (decodeWord_eq_error_iff w).mpr hreserved
  refine ⟨fun rest hp => ?_, fun hp => ?_⟩
  · rw [step_cons hwf hp]
    exact engineTurn_of_illegal (s := { s with pending := rest }) hs hd
  · rw [step_nil hwf hp]
    exact engineTurn_of_illegal hs hd

end Sys2Proof.Machine
end

section
/-! PARSE and DECODE of a stream that fails a check, and the grid DECODE makes of one that passes them all. -/

namespace Sys2Proof.Machine

/-! ### The first failing check -/

/-- Settles O16: the state both end in is `partlyParsed`, with the error raised. -/
theorem firstFailingCheckEndsParseAndDecode : Obligations.FirstFailingCheckEndsParseAndDecode := by
  intro s e _ he entry
  obtain ⟨hfile, hinfo, hpal⟩ := partlyParsed_read he
  refine ⟨(s.partlyParsed e).raise e, e.code, exec_parse_some he, exec_decode_some he, ?_, ?_, hpal⟩
  · exact List.mem_map_of_mem (f := fun e => (e, e.code)) (headerError_mem he)
  · rw [← hfile, ← hinfo]
    exact congrArg (State.raise · e) (partlyParsed_eq s e)

/-! ### The fields of a row -/

/-- Bit k of the j-th little-endian word of a row is bit `32 j + k` of the row (R58, R118). -/
theorem rowWord_testBit (s : State) (base j : Nat) {k : Nat} (hk : k < 32) :
    (s.memRead (base + 4 * j) 4).testBit k = (s.inByte (base + (32 * j + k) / 8)).toNat.testBit ((32 * j + k) % 8) := by
  rw [memRead_testBit s _ 4 k hk, show (32 * j + k) % 8 = k % 8 by omega,
    show base + 4 * j + k / 8 = base + (32 * j + k) / 8 by omega]

/-- A field of at most 32 bits lies in one word of the row or in two adjacent ones; either way it is the row's bits
(R118, R119). -/
theorem field_eq_bitField (s : State) (base p : Nat) {b : Nat} (hb : b ≤ 32) : s.field base p b = s.bitField base p b := by
  obtain ⟨j, off, hoff, rfl⟩ : ∃ j off, off < 32 ∧ p = 32 * j + off :=
    ⟨p / 32, p % 32, Nat.mod_lt _ (by norm_num), (Nat.div_add_mod p 32).symm⟩
  have hj : (32 * j + off) / 32 = j := by omega
  have hr : (32 * j + off) % 32 = off := by omega
  apply Nat.eq_of_testBit_eq
  intro i
  rw [bitField_testBit]
  simp only [State.field, hj, hr]
  by_cases hone : b ≤ 32 - off
  · rw [Nat.min_eq_left hone, if_neg (lt_irrefl b), Nat.testBit_mod_two_pow, Nat.testBit_div_two_pow]
    by_cases hi : i < b
    · rw [Nat.add_comm i, rowWord_testBit s base j (by omega), ← Nat.add_assoc]
    · simp only [hi, decide_false, Bool.false_and]
  · have hlow : s.memRead (base + 4 * j) 4 / 2 ^ off % 2 ^ (32 - off) < 2 ^ (32 - off) :=
      Nat.mod_lt _ (Nat.two_pow_pos _)
    rw [Nat.min_eq_right (by omega), if_pos (by omega), Nat.add_comm, Nat.mul_comm, Nat.testBit_two_pow_mul_add _ hlow]
    by_cases hi : i < 32 - off
    · rw [if_pos hi, Nat.testBit_mod_two_pow, Nat.testBit_div_two_pow, Nat.add_comm i,
        rowWord_testBit s base j (by omega), ← Nat.add_assoc]
      simp only [hi, show i < b by omega]
    · have hnext : i - (32 - off) < b - (32 - off) ↔ i < b := by omega
      rw [if_neg hi, Nat.testBit_mod_two_pow]
      simp only [hnext]
      by_cases hib : i < b
      · rw [rowWord_testBit s base _ (by omega), show 32 * (j + 1) + (i - (32 - off)) = 32 * j + off + i by omega]
      · simp only [hib, decide_false, Bool.false_and]

/-! ### A pixel of a row -/

/-- The field of pixel x of row r, from the bytes of the stream (R79, R119). -/
def State.streamField (s : State) (r x : Nat) : Nat :=
  s.bitField (s.streamOffset + r * s.streamStride) (x * s.streamBpp) s.streamBpp

theorem streamField_lt (s : State) (r x : Nat) : s.streamField r x < 2 ^ s.streamBpp := bitField_lt _ _ _ _

theorem mapField_congr {s t : State} (hp : t.pal = s.pal) (hr : t.resets = s.resets) (b f : Nat) :
    t.mapField b f = s.mapField b f := by
  simp only [State.mapField, palEntry_congr hp hr]

/-- The row loop cuts the stream's fields: the parse stages have put its offset and stride into the registers (R114,
R116). -/
theorem committed_rowPixel {s : State} (hwf : s.params.wf = true) (h : s.headerError = none) (r x : Nat) :
    (commitGrid s.parsed).rowPixel r x = s.parsed.mapField s.streamBpp (s.streamField r x) := by
  obtain ⟨-, hdepth, -⟩ := headerError_none h
  have hstride := (stride_bounds hwf h).1
  have hbase : (commitGrid s.parsed).rowBase r = s.streamOffset + r * s.streamStride := parsed_rowBase hstride r
  have hbpp : (commitGrid s.parsed).bpp = s.streamBpp := parsed_bpp s
  have hfield : ∀ base p, (commitGrid s.parsed).field base p s.streamBpp = s.bitField base p s.streamBpp :=
    fun base p => calc
      _ = s.parsed.field base p s.streamBpp :=
        field_congr (t := commitGrid s.parsed) (s := s.parsed) rfl rfl base p _
      _ = s.field base p s.streamBpp := parsed_field s base p _
      _ = _ := field_eq_bitField s base p (by omega)
  rw [State.rowPixel, hbase, hbpp, hfield, ← State.streamField]
  exact mapField_congr (t := commitGrid s.parsed) (s := s.parsed) rfl rfl _ _

/-- The palette's one entry times a bit is black or the entry (R120). -/
theorem scalePixel_bit (p : Pixel) {f : Nat} (hf : f < 2) : scalePixel p f = if f = 0 then Pixel.black else p := by
  interval_cases f <;> simp [scalePixel, Pixel.black]

/-- Where every entry a field can select is loaded, the palette reads as the stream's (R111). -/
theorem parsed_palEntry_of_lt {s : State} {i : Nat} (hb : s.streamBpp ≤ 8) (hi : i < s.streamColors) :
    s.parsed.palEntry i = s.streamEntry i := by
  rw [parsed_palEntry, State.loadedEntry, if_pos ⟨hb, hi⟩]

/-- A field of fewer than 17 bits has no red byte (R122). -/
theorem bgrPixel_of_lt {f : Nat} (hf : f < 2 ^ 16) :
    bgrPixel f = { r := 0, g := BitVec.ofNat 8 (f / 256), b := BitVec.ofNat 8 f } := by
  rw [bgrPixel, Nat.div_eq_of_lt (by omega)]
  rfl

/-- The pixel the row loop writes is the one the stream's bytes say, depth by depth (R120 to R123). -/
theorem mapField_streamField {s : State} (h : s.headerError = none) (r x : Nat) :
    s.parsed.mapField s.streamBpp (s.streamField r x) = s.streamPixel s.streamEntry r x := by
  obtain ⟨-, hdepth, hcolors1, hcolors4, hcolors8, -⟩ := headerError_none h
  have hlt := streamField_lt s r x
  rw [State.mapField, State.streamPixel, ← State.streamField]
  rcases hdepth with hb | hb | hb | hb | hb <;>
    simp only [hb, Nat.reduceEqDiff, OfNat.ofNat_ne_one, OfNat.one_ne_ofNat, or_false, or_true, if_true, if_false]
      at hlt ⊢
  · rw [scalePixel_bit _ hlt, parsed_palEntry_of_lt (by omega) (by rw [hcolors1 hb]; exact zero_lt_one)]
  · exact parsed_palEntry_of_lt (by omega) (by rw [hcolors4 hb]; exact hlt)
  · exact parsed_palEntry_of_lt (by omega) (by rw [hcolors8 hb]; exact hlt)
  · exact bgrPixel_of_lt hlt
  · rfl

/-! ### The end of the row loop -/

/-- DECODE's state after the row loop, before `finish` (R101). -/
def State.decoded (s : State) : State := unpackRows (commitGrid s.parsed) 0 s.parsed.hdrHeight

/-- DECODE writes the shadows, PAL and ROW_BYTES, the grid registers, bank 0, and of STATUS CUR_BANK and TRUNC. -/
theorem decoded_eq (s : State) :
    s.decoded = { s with
      fileHdr := s.readFileHdr
      infoHdr := s.readInfoHdr
      pal := s.parsed.pal
      rowBytes := BitVec.ofNat 32 s.streamStride
      gridW := s.readInfoHdr.width
      gridH := s.readInfoHdr.height
      status := { s.status with curBank := .bank0, trunc := s.decoded.status.trunc }
      pix0 := s.decoded.pix0
      rowsDone := s.decoded.rowsDone } := by
  have hframe := unpackRows_frame (commitGrid s.parsed) 0 s.parsed.hdrHeight
  rw [← State.decoded] at hframe
  rw [hframe, commitGrid, parsed_infoHdr, parsed_eq]

theorem decoded_trunc {s : State} (hwf : s.params.wf = true) (h : s.headerError = none) :
    s.decoded.status.trunc = (s.status.trunc || decide (s.fullRows < s.streamHeight)) := by
  have hkeep : (commitGrid s.parsed).status.trunc = s.status.trunc := by rw [parsed_eq]; rfl
  rw [State.decoded, unpackRows_parsed hwf h]
  by_cases hshort : s.fullRows < s.streamHeight
  · simp only [hshort, if_true, decide_true, Bool.or_true]
    rfl
  · simp only [hshort, if_false, decide_false, Bool.or_false]
    exact hkeep

theorem decoded_rowsDone {s : State} (hwf : s.params.wf = true) (h : s.headerError = none) :
    s.decoded.rowsDone.toNat = s.fullRows := by
  obtain ⟨-, -, hheight, -⟩ := stride_bounds hwf h
  have hle : s.fullRows ≤ s.streamHeight := Nat.min_le_left _ _
  rw [State.decoded, unpackRows_parsed hwf h]
  exact (BitVec.toNat_ofNat _ _).trans (Nat.mod_eq_of_lt (by omega))

/-- Pixel (x, y) of the grid is the stream's in a full row and black in the rows after (R116, R125). -/
theorem decoded_pixel {s : State} (hwf : s.params.wf = true) (h : s.headerError = none) {y x : Nat}
    (hy : y < s.streamHeight) (hx : x < s.streamWidth) :
    s.decoded.pixel .bank0 (y * s.streamWidth + x) =
      if y < s.fullRows then s.streamPixel s.streamEntry y x else Pixel.black := by
  have hwidth : (commitGrid s.parsed).hdrWidth = s.streamWidth := parsed_hdrWidth s
  have hheight : (commitGrid s.parsed).hdrHeight = s.streamHeight := parsed_hdrHeight s
  have hin : y * s.streamWidth + x < s.streamHeight * s.streamWidth := by
    have := Nat.mul_le_mul_right s.streamWidth (Nat.succ_le_of_lt hy)
    rw [Nat.succ_mul] at this
    omega
  have hdiv : (y * s.streamWidth + x) / s.streamWidth = y := by
    rw [Nat.mul_comm, Nat.mul_add_div (by omega), Nat.div_eq_of_lt hx, Nat.add_zero]
  have hread := finishRows_read (commitGrid s.parsed) (decide (s.fullRows < s.streamHeight)) s.fullRows
    (by rw [hheight]; exact Nat.min_le_left _ _) (by omega) (y * s.streamWidth + x)
  simp only [decide_eq_true_eq] at hread
  rw [← unpackRows_parsed hwf h, hwidth, hheight, if_pos hin, hdiv, Nat.mul_add_mod_of_lt hx,
    committed_rowPixel hwf h, mapField_streamField h] at hread
  rw [State.pixel, State.bank, State.decoded, hread]
  rfl

/-- Settles O18: DECODE ends in `decoded`, whose grid is the stream's. -/
theorem decodeBuildsTheGridOfTheStream : Obligations.DecodeBuildsTheGridOfTheStream := by
  intro s hwf _ h entry
  have hstride := (stride_bounds hwf h).1
  refine ⟨s.decoded.finish, exec_decode_none h, rfl, ?_, ?_, ?_, decoded_rowsDone hwf h, ?_, ?_, ?_, ?_,
    fun y x hy hx => decoded_pixel hwf h hy hx⟩
  · rw [← decoded_trunc hwf h, decoded_eq]
    rfl
  · rw [decoded_eq]
    exact le32_toNat s 18
  · rw [decoded_eq]
    exact le32_toNat s 22
  · rw [decoded_eq]
    rfl
  · rw [decoded_eq]
    rfl
  · rw [decoded_eq]
    exact (BitVec.toNat_ofNat _ _).trans (Nat.mod_eq_of_lt hstride)
  · intro i
    have hload : s.decoded.finish.palEntry i = s.parsed.palEntry i :=
      palEntry_congr (by rw [decoded_eq]; rfl) (by rw [decoded_eq, parsed_eq]; rfl) i
    exact hload.trans (parsed_palEntry s i)

end Sys2Proof.Machine
end

section
/-! The life of a command: dispatch on the latched word, a CMD write when IDLE and while BUSY, and the end of every
command. -/

namespace Sys2Proof.Machine

/-! ### Dispatch on the word -/

/-- The turn of a BUSY engine, word by word: the four encodings run their commands, and no other word decodes (R93). -/
theorem engineTurn_of_busy {s : State} {w : Word} (hs : s.seq = .busy w) :
    engineTurn s =
      if w = encode .nop then exec .nop s
      else if w = encode .parse then exec .parse s
      else if w = encode .decode then exec .decode s
      else if w = encode .conv then exec .conv s
      else .next (s.raise .illegalCommand) := by
  cases hd : decodeWord w with
  | ok i =>
    rw [engineTurn_of_decoded hs hd, eq_encode_of_decodeWord hd]
    cases i <;> rfl
  | error e =>
    have hne : ∀ i, w ≠ encode i := by
      rintro i rfl
      rw [decodeWord_encode] at hd
      cases hd
    rw [engineTurn_of_illegal hs hd, if_neg (hne _), if_neg (hne _), if_neg (hne _), if_neg (hne _)]

/-- Settles O5: the step is the engine's turn, whose command the word selects. -/
theorem engineDispatchesOnTheWord : Obligations.EngineDispatchesOnTheWord := by
  intro s w hwf _ hs
  refine ⟨fun rest hp => ?_, fun hp => ?_⟩
  · rw [step_cons hwf hp]
    exact engineTurn_of_busy (s := { s with pending := rest }) hs
  · rw [step_nil hwf hp]
    exact engineTurn_of_busy hs

/-- A word placed from its own 32 bits is the word issued (log 4). -/
theorem withFetchWord_toNat (s : State) (w : Word) : s.withFetchWord 32 w.toNat = s.issueNow w := by
  rw [State.withFetchWord, Nat.mod_eq_of_lt w.isLt, BitVec.ofNat_toNat, BitVec.setWidth_eq]

/-- Settles O6: the placed word is latched and the engine's turn is pending first. -/
theorem placedWordRunsNext : Obligations.PlacedWordRunsNext := by
  intro s w i hwf _ hd
  rw [withFetchWord_toNat, step_cons (s := s.issueNow w) hwf rfl]
  exact engineTurn_of_decoded (s := s.issue w) rfl hd

/-! ### A CMD write -/

/-- A step that takes a CMD write when IDLE issues the word (R90, R91). -/
theorem step_cmdWrite_idle {s : State} {w : Word} {rest : List Turn} (hwf : s.params.wf = true) (hidle : s.seq = .idle)
    (hp : s.pending = .host (.write .four 0x00000004 w) :: rest) :
    step s = .next ((({ s with pending := rest } : State).issue w).respond (.write .okay)) := by
  rw [step_write hwf hp, hostWrite_cmd]
  rcases writeCmd_cases { s with pending := rest } w with ⟨-, e⟩ | ⟨v, hbusy, -⟩
  · rw [e]
  · cases hidle.symm.trans hbusy

/-- Settles O7: the state after the step is the issued one, field by field. -/
theorem cmdWriteStartsTheCommand : Obligations.CmdWriteStartsTheCommand := by
  intro s w rest hwf _ hidle hp
  exact ⟨_, step_cmdWrite_idle hwf hidle hp, rfl, statusWord_busy _ _, irq_of_not_done rfl⟩

/-- A step that takes a CMD write while BUSY drops it and sets LOST (R98). -/
theorem step_cmdWrite_busy {s : State} {w v : Word} {rest : List Turn} (hwf : s.params.wf = true) (hs : s.seq = .busy w)
    (hp : s.pending = .host (.write .four 0x00000004 v) :: rest) :
    step s = .next { s with
      pending := rest
      response := some (.write .okay)
      status := { s.status with lost := true } } := by
  rw [step_write hwf hp, hostWrite_cmd]
  rcases writeCmd_cases { s with pending := rest } v with ⟨hidle, -⟩ | ⟨_, -, e⟩
  · cases hs.symm.trans hidle
  · rw [e]
    rfl

/-! ### LOST -/

/-- The engine's turn keeps LOST (R45, R92). -/
theorem engineTurn_keeps_lost {s t : State} (h : engineTurn s = .next t) : t.status.lost = s.status.lost := by
  rcases engineTurn_frame h with ⟨-, rfl⟩ | ⟨-, hframe⟩
  · rfl
  · rw [hframe]

/-- A host read keeps STATUS (R24, R63). -/
theorem hostRead_keeps_status (s : State) (z : Size) (a : Word) : (s.hostRead z a).status = s.status := by
  obtain ⟨r, e | ⟨-, e⟩ | ⟨-, -, -, e⟩⟩ := hostRead_effect s z a <;> rw [e] <;> rfl

/-- Of the host's writes, only one of STATUS with bit 6 set clears LOST (R37, R98). -/
theorem hostWrite_lost_fall {s : State} {z : Size} {a v : Word} (hset : s.status.lost = true)
    (hclear : (s.hostWrite z a v).status.lost = false) : z = .four ∧ a = 0x00000008 ∧ v.getLsbD 6 = true := by
  rcases hostWrite_effect s z a v with e | ⟨-, -, -, e⟩ | ⟨-, -, e⟩ | ⟨hz, ha, e⟩ |
    ⟨-, -, -, e⟩ | ⟨-, t, e, hframe, -⟩ <;>
    rw [e] at hclear
  · cases hset.symm.trans hclear
  · cases hset.symm.trans hclear
  · rcases writeCmd_cases s v with ⟨-, e'⟩ | ⟨w, -, e'⟩ <;> rw [e'] at hclear
    · cases hset.symm.trans hclear
    · cases hclear
  · have hbit : (s.status.lost && !v.getLsbD 6) = false := hclear
    rw [hset] at hbit
    exact ⟨hz, ha, by simpa using hbit⟩
  · cases hset.symm.trans hclear
  · rw [hframe] at hclear
    cases hset.symm.trans hclear

/-- LOST falls only by a write of STATUS with bit 6 set or by reset (R98, R170). -/
theorem step_lost_fall {s t : State} (h : step s = .next t) (hset : s.status.lost = true)
    (hclear : t.status.lost = false) :
    (∃ rest v, s.pending = .host (.write .four 0x00000008 v) :: rest ∧ v.getLsbD 6 = true) ∨
      ∃ rest, s.pending = .reset :: rest := by
  have hne : t.status.lost ≠ s.status.lost := by rw [hset, hclear]; exact Bool.false_ne_true
  obtain ⟨-, ⟨-, ht⟩ | ⟨rest, -, ht⟩ | ⟨rest, hp, -⟩ | ⟨rest, a, hp, rfl⟩⟩ := step_cases h
  · exact absurd (engineTurn_keeps_lost ht) hne
  · exact absurd (engineTurn_keeps_lost ht) hne
  · exact .inr ⟨rest, hp⟩
  · cases a with
    | read z a => exact absurd (congrArg Status.lost (hostRead_keeps_status { s with pending := rest } z a)) hne
    | write z a v =>
      obtain ⟨rfl, rfl, hbit⟩ := hostWrite_lost_fall (s := { s with pending := rest }) hset hclear
      exact .inl ⟨rest, v, hp, hbit⟩

/-- Settles O8: the drop is the step of a CMD write while BUSY, and each turn is asked whether it can clear LOST. -/
theorem cmdWriteWhileBusyIsDropped : Obligations.CmdWriteWhileBusyIsDropped :=
  ⟨fun _ _ _ _ hwf _ hs hp => step_cmdWrite_busy hwf hs hp, fun _ _ _ => step_lost_fall⟩

/-! ### The end of a command -/

/-- Settles O11: every command answers a state, and the frame of `exec` says how each of them ends. -/
theorem everyCommandEnds : Obligations.EveryCommandEnds := by
  intro i s _
  obtain ⟨t, ht⟩ := exec_next i s
  have hframe := exec_frame ht
  have hidle : t.seq = .idle := by rw [hframe]
  exact ⟨t, ht, hidle, by rw [hframe], by rw [hframe], by rw [statusWord_busy, hidle]; rfl⟩

/-- The engine's turn on the word of NOP ends the command and does nothing else (R94). -/
theorem step_nop {s : State} {rest : List Turn} (hwf : s.params.wf = true) (hs : s.seq = .busy (encode .nop))
    (hp : s.pending = .engine :: rest) :
    step s = .next { s with pending := rest, seq := .idle, status := s.status.ended } := by
  rw [step_cons hwf hp]
  exact engineTurn_of_decoded (s := { s with pending := rest }) hs (decodeWord_encode .nop)

/-- Settles O9: the CMD write issues the word of NOP, and the engine's turn then only ends it. -/
theorem nopLeavesACleanStatus : Obligations.NopLeavesACleanStatus := by
  refine ⟨fun s _ => exec_nop s, fun s rest hwf _ hidle hp => ?_⟩
  refine (run_succ (step_cmdWrite_idle hwf hidle hp) 1).trans ((run_one (step_nop (rest := rest) ?_ rfl rfl)).trans ?_)
  · exact hwf
  · rw [← hidle]
    rfl

end Sys2Proof.Machine
end

section
/-! What the stream decides: the fields of a row of ones, the end of PARSE, the reach of DECODE, and that two states with the
same stream decode alike. -/

namespace Sys2Proof.Machine

/-! ### A row of ones -/

theorem ones_testBit {i : Nat} (hi : i < 8) : (0xFF : Byte).toNat.testBit i = true := by
  interval_cases i <;> rfl

theorem bitField_of_ones {s : State} {base p b : Nat}
    (hones : ∀ a, base ≤ a → a ≤ base + (p + b) / 8 → s.inByte a = 0xFF) : s.bitField base p b = 2 ^ b - 1 := by
  apply Nat.eq_of_testBit_eq
  intro i
  rw [bitField_testBit, Nat.testBit_two_pow_sub_one]
  by_cases hi : i < b
  · have hle : (p + i) / 8 ≤ (p + b) / 8 := Nat.div_le_div_right (by omega)
    rw [hones _ (by omega) (by omega), ones_testBit (Nat.mod_lt _ (by norm_num)), Bool.and_true]
  · simp only [hi, decide_false, Bool.false_and]

/-- Settles O21: the field is the bit string, and so all ones where each of its bytes is. -/
theorem fieldIsTheRowsBitString : Obligations.FieldIsTheRowsBitString :=
  ⟨fun s base p _ hb => field_eq_bitField s base p hb,
    fun s base p _ hb hones => (field_eq_bitField s base p hb).trans (bitField_of_ones hones)⟩

/-! ### The end of PARSE -/

/-- A row's bytes hold all of its pixels' bits (R114). -/
theorem rowBits_le_stride (s : State) : s.streamWidth * s.streamBpp ≤ 8 * s.streamStride := by
  unfold State.streamStride rowStride
  omega

theorem parsed_rowBytes_toNat {s : State} (hwf : s.params.wf = true) (h : s.headerError = none) :
    s.parsed.rowBytes.toNat = s.streamStride := by
  rw [parsed_rowBytes, BitVec.toNat_ofNat, Nat.mod_eq_of_lt (stride_bounds hwf h).1]

/-- Settles O17: PARSE ends in `parsed`, whose stride is exact because the dimensions fit the grid. -/
theorem parseLoadsHeadersPaletteAndStride : Obligations.ParseLoadsHeadersPaletteAndStride := by
  intro s hwf _ h entry
  have hstride : s.parsed.finish.rowBytes.toNat = s.streamStride := parsed_rowBytes_toNat hwf h
  refine ⟨s.parsed.finish, exec_parse_none h, congrArg State.finish (parsed_eq s), parsed_palEntry s, hstride, ?_, ?_⟩
  · rw [hstride]
    exact Nat.mul_mod_left _ _
  · rw [hstride]
    exact rowBits_le_stride s

/-! ### The reach of DECODE -/

/-- The row loop writes no pixel beyond the grid, wherever it ends (R116, R125). -/
theorem decoded_pixel_beyond {s : State} (h : s.headerError = none) {i : Nat}
    (hi : s.streamWidth * s.streamHeight ≤ i) : s.decoded.pixel .bank0 i = s.pixel .bank0 i := by
  obtain ⟨-, -, -, -, -, -, -, hpos, -⟩ := headerError_none h
  have hwidth : (commitGrid s.parsed).hdrWidth = s.streamWidth := parsed_hdrWidth s
  have hheight : (commitGrid s.parsed).hdrHeight = s.streamHeight := parsed_hdrHeight s
  obtain ⟨j, hj, -, -, hend⟩ := unpackRows_eq (commitGrid s.parsed) 0 s.parsed.hdrHeight
  have hread := finishRows_read (commitGrid s.parsed) (decide (j < s.parsed.hdrHeight)) j hj (by omega) i
  have hkeep : (commitGrid s.parsed).pix0 = s.pix0 := by rw [parsed_eq]; rfl
  have hresets : s.decoded.resets = s.resets := by rw [decoded_eq]
  rw [Nat.zero_add] at hend
  simp only [decide_eq_true_eq] at hread
  rw [← hend, ← State.decoded, hwidth, hheight, if_neg (by rw [Nat.mul_comm]; omega), hkeep] at hread
  rw [State.pixel, State.pixel, hresets]
  exact congrArg (Option.getD · _) hread

/-- Settles O19: the frame of `exec` gives bank 1, the row loop's reach bank 0, and an error ends in `partlyParsed`. -/
theorem decodeTouchesOnlyItsGrid : Obligations.DecodeTouchesOnlyItsGrid := by
  intro s _
  obtain ⟨t, ht⟩ := exec_next .decode s
  have hbank1 : ∀ i, t.pixel .bank1 i = s.pixel .bank1 i :=
    pixel_congr_bank (exec_decode_keeps_range_bank1 ht).2 (exec_keeps_resets ht)
  refine ⟨t, ht, hbank1, ?_⟩
  cases he : s.headerError with
  | none =>
    rw [exec_decode_none he] at ht
    cases ht
    exact ⟨fun i hi => decoded_pixel_beyond he hi, fun hne => absurd rfl hne⟩
  | some e =>
    rw [exec_decode_some he, partlyParsed_eq] at ht
    cases ht
    exact ⟨fun _ _ => rfl, fun _ => ⟨rfl, rfl, rfl, rfl, rfl, fun _ => rfl⟩⟩

/-! ### Two states with the same stream -/

/-- The states hold the same stream: the same length and the same bytes below it (R129). -/
structure SameStream (s u : State) : Prop where
  len : s.streamLen = u.streamLen
  byte : ∀ a < s.streamLen, s.inByte a = u.inByte a

section
variable {s u : State} (hsame : SameStream s u)
include hsame

theorem SameStream.memRead {a n : Nat} (hin : a + n ≤ s.streamLen) : s.memRead a n = u.memRead a n :=
  memRead_congr_bytes fun k hk => hsame.byte (a + k) (by omega)

/-- The header fields the grid depends on are the same (R76, R77). -/
theorem SameStream.fields (hlen : 54 ≤ s.streamLen) :
    s.streamOffset = u.streamOffset ∧ s.streamWidth = u.streamWidth ∧ s.streamHeight = u.streamHeight ∧
      s.streamBpp = u.streamBpp ∧ s.streamColors = u.streamColors :=
  ⟨hsame.memRead (by omega), hsame.memRead (by omega), hsame.memRead (by omega), hsame.memRead (by omega),
    hsame.memRead (by omega)⟩

/-- No check reads a byte before the length check that covers it, so the same check fails (R102, R104, R155). -/
theorem SameStream.headerError (hcap : s.params.gridCap = u.params.gridCap) : s.headerError = u.headerError := by
  rw [State.headerError, State.headerError, ← hsame.len]
  by_cases h14 : s.streamLen < 14
  · rw [if_pos h14, if_pos h14]
  rw [if_neg h14, if_neg h14, ← hsame.memRead (a := 0) (n := 2) (by omega)]
  by_cases h54 : s.streamLen < 54
  · rw [if_pos h54, if_pos h54]
  obtain ⟨hoffset, hwidth, hheight, hbpp, hcolors⟩ := hsame.fields (by omega)
  rw [← hsame.memRead (a := 26) (n := 2) (by omega), ← hsame.memRead (a := 50) (n := 4) (by omega),
    ← hsame.memRead (a := 14) (n := 4) (by omega), ← hsame.memRead (a := 30) (n := 4) (by omega),
    ← hoffset, ← hwidth, ← hheight, ← hbpp, ← hcolors, ← hcap]

theorem SameStream.stride (hlen : 54 ≤ s.streamLen) : s.streamStride = u.streamStride := by
  obtain ⟨-, hwidth, -, hbpp, -⟩ := hsame.fields hlen
  rw [State.streamStride, State.streamStride, hwidth, hbpp]

theorem SameStream.fullRows (hlen : 54 ≤ s.streamLen) : s.fullRows = u.fullRows := by
  obtain ⟨hoffset, -, hheight, -⟩ := hsame.fields hlen
  rw [State.fullRows, State.fullRows, hsame.len, hoffset, hheight, hsame.stride hlen]

theorem SameStream.bitField {base p b : Nat} (hin : ∀ k < b, base + (p + k) / 8 < s.streamLen) :
    s.bitField base p b = u.bitField base p b := by
  have hbits : ∀ k ∈ List.range b, byteBit (s.inByte (base + (p + k) / 8)) ((p + k) % 8) * 2 ^ k =
      byteBit (u.inByte (base + (p + k) / 8)) ((p + k) % 8) * 2 ^ k := fun k hk => by
    rw [hsame.byte _ (hin k (List.mem_range.mp hk))]
  rw [State.bitField, State.bitField, List.map_congr_left hbits]

end

/-- A full row ends inside the stream (R116). -/
theorem fullRow_inside {s : State} (hwf : s.params.wf = true) (h : s.headerError = none) {r : Nat} (hr : r < s.fullRows) :
    s.streamOffset + r * s.streamStride + s.streamStride ≤ s.streamLen := by
  obtain ⟨-, -, -, -, -, -, hoffset, -⟩ := headerError_none h
  obtain ⟨-, hpos, -, -⟩ := stride_bounds hwf h
  have hrows : r + 1 ≤ (s.streamLen - s.streamOffset) / s.streamStride := hr.trans_le (Nat.min_le_right _ _)
  rw [Nat.le_div_iff_mul_le hpos, Nat.succ_mul] at hrows
  omega

/-- The last bit of a pixel lies in its row (R79, R114). -/
theorem pixelBit_inside (s : State) {x k : Nat} (hx : x < s.streamWidth) (hk : k < s.streamBpp) :
    (x * s.streamBpp + k) / 8 < s.streamStride := by
  have hrow := rowBits_le_stride s
  have hpixel := Nat.mul_le_mul_right s.streamBpp (Nat.succ_le_of_lt hx)
  rw [Nat.succ_mul] at hpixel
  omega

/-- A pixel of a full row has the same field in both (R119). -/
theorem SameStream.streamField {s u : State} (hsame : SameStream s u) (hwf : s.params.wf = true)
    (h : s.headerError = none) {r x : Nat} (hr : r < s.fullRows) (hx : x < s.streamWidth) :
    s.streamField r x = u.streamField r x := by
  have hlen := (headerError_none h).1
  obtain ⟨hoffset, -, -, hbpp, -⟩ := hsame.fields hlen
  rw [State.streamField, State.streamField, ← hoffset, ← hsame.stride hlen, ← hbpp]
  refine hsame.bitField fun k hk => ?_
  have hrow := fullRow_inside hwf h hr
  have hbit := pixelBit_inside s hx hk
  omega

/-- The palette entries of a stream that passes every check lie inside it (R78, R111). -/
theorem SameStream.streamEntry {s u : State} (hsame : SameStream s u) (h : s.headerError = none) {i : Nat}
    (hb : s.streamBpp ≤ 8) (hi : i < s.streamColors) : s.streamEntry i = u.streamEntry i := by
  obtain ⟨-, -, -, -, -, hpalette, -⟩ := headerError_none h
  have hin := hpalette hb
  rw [State.streamEntry, State.streamEntry, hsame.byte _ (by omega), hsame.byte _ (by omega), hsame.byte _ (by omega)]

/-- A pixel of a full row is the same in both: depth by depth, its field selects an entry of the stream or is the pixel
(R120 to R123, R128). -/
theorem SameStream.streamPixel {s u : State} (hsame : SameStream s u) (hwf : s.params.wf = true)
    (h : s.headerError = none) {r x : Nat} (hr : r < s.fullRows) (hx : x < s.streamWidth) :
    s.streamPixel s.streamEntry r x = u.streamPixel u.streamEntry r x := by
  obtain ⟨hlen, hdepth, hcolors1, hcolors4, hcolors8, -⟩ := headerError_none h
  obtain ⟨-, -, -, hbpp, -⟩ := hsame.fields hlen
  have hlt := streamField_lt s r x
  rw [State.streamPixel, State.streamPixel, ← State.streamField, ← State.streamField, ← hbpp,
    ← hsame.streamField hwf h hr hx]
  rcases hdepth with hb | hb | hb | hb | hb <;>
    simp only [hb, Nat.reduceEqDiff, OfNat.ofNat_ne_one, OfNat.one_ne_ofNat, or_false, or_true, if_true, if_false]
      at hlt ⊢
  · rw [hsame.streamEntry h (by omega) (by rw [hcolors1 hb]; exact zero_lt_one)]
  · exact hsame.streamEntry h (by omega) (by rw [hcolors4 hb]; exact hlt)
  · exact hsame.streamEntry h (by omega) (by rw [hcolors8 hb]; exact hlt)

/-- The two grids agree pixel by pixel: in a full row by the stream, and the other rows are black (R116, R125). -/
theorem SameStream.decoded_pixel {s u : State} (hsame : SameStream s u) (hwfs : s.params.wf = true)
    (hwfu : u.params.wf = true) (hs : s.headerError = none) (hu : u.headerError = none) {y x : Nat}
    (hy : y < s.streamHeight) (hx : x < s.streamWidth) :
    s.decoded.pixel .bank0 (y * s.streamWidth + x) = u.decoded.pixel .bank0 (y * s.streamWidth + x) := by
  have hlen := (headerError_none hs).1
  obtain ⟨-, hwidth, hheight, -, -⟩ := hsame.fields hlen
  rw [Machine.decoded_pixel hwfs hs hy hx, hwidth, Machine.decoded_pixel hwfu hu (hheight ▸ hy) (hwidth ▸ hx),
    ← hsame.fullRows hlen]
  by_cases hfull : y < s.fullRows
  · rw [if_pos hfull, if_pos hfull, hsame.streamPixel hwfs hs hfull hx]
  · rw [if_neg hfull, if_neg hfull]

theorem decoded_gridW_toNat (s : State) : s.decoded.gridW.toNat = s.streamWidth := by
  rw [decoded_eq]
  exact le32_toNat s 18

theorem decoded_gridH_toNat (s : State) : s.decoded.gridH.toNat = s.streamHeight := by
  rw [decoded_eq]
  exact le32_toNat s 22

theorem decoded_curBank (s : State) : s.decoded.status.curBank = .bank0 := by
  rw [decoded_eq]

/-- Settles O20: the checks, the grid registers, the row count and the pixels agree one by one. -/
theorem decodedGridDependsOnTheStreamOnly : Obligations.DecodedGridDependsOnTheStreamOnly := by
  intro s u hwfs hwfu _ _ hlen hcap hbytes
  have hsame : SameStream s u := ⟨congrArg BitVec.toNat hlen, hbytes⟩
  have herror := hsame.headerError hcap
  refine ⟨herror, fun hs => ?_⟩
  have hu : u.headerError = none := herror.symm.trans hs
  have hhdr := (headerError_none hs).1
  obtain ⟨-, hwidth, hheight, -, -⟩ := hsame.fields hhdr
  refine ⟨s.decoded.finish, u.decoded.finish, exec_decode_none hs, exec_decode_none hu, ?_, ?_, ?_, ?_, fun i hi => ?_⟩
  · apply BitVec.eq_of_toNat_eq
    exact (decoded_gridW_toNat s).trans (hwidth.trans (decoded_gridW_toNat u).symm)
  · apply BitVec.eq_of_toNat_eq
    exact (decoded_gridH_toNat s).trans (hheight.trans (decoded_gridH_toNat u).symm)
  · exact (decoded_curBank s).trans (decoded_curBank u).symm
  · apply BitVec.eq_of_toNat_eq
    exact (decoded_rowsDone hwfs hs).trans ((hsame.fullRows hhdr).trans (decoded_rowsDone hwfu hu).symm)
  · rw [finish_gridW, finish_gridH, decoded_gridW_toNat, decoded_gridH_toNat] at hi
    have hx : i % s.streamWidth < s.streamWidth := Nat.mod_lt _ (Nat.pos_of_mul_pos_right (Nat.zero_lt_of_lt hi))
    have hpixel := hsame.decoded_pixel hwfs hwfu hs hu (Nat.div_lt_of_lt_mul hi) hx
    rwa [Nat.div_add_mod'] at hpixel

end Sys2Proof.Machine
end

section
/-! The sums of CONV's two kernels, and its passes on a plain grid: each lane depends on itself only, the border stays, a
constant grid stays. -/

namespace Sys2Proof.Machine

/-! ### The sums -/

/-- Nine byte taps with weights of sum 16 (R133, R138). -/
theorem blurSum_bounds {l : Nat → Nat → Int} (hl : ∀ y x, 0 ≤ l y x ∧ l y x ≤ 255) (y x : Nat) :
    0 ≤ blurSum l y x ∧ blurSum l y x ≤ 4080 := by
  unfold blurSum
  have := hl (y - 1) (x - 1); have := hl (y - 1) x; have := hl (y - 1) (x + 1)
  have := hl y (x - 1); have := hl y x; have := hl y (x + 1)
  have := hl (y + 1) (x - 1); have := hl (y + 1) x; have := hl (y + 1) (x + 1)
  omega

/-- Five byte taps, 5 of the centre less its four neighbours (R134, R138). -/
theorem sharpSum_bounds {l : Nat → Nat → Int} (hl : ∀ y x, 0 ≤ l y x ∧ l y x ≤ 255) (y x : Nat) :
    -1020 ≤ sharpSum l y x ∧ sharpSum l y x ≤ 1275 := by
  unfold sharpSum
  have := hl (y - 1) x
  have := hl y (x - 1); have := hl y x; have := hl y (x + 1)
  have := hl (y + 1) x
  omega

/-- The blur kernel is the product of the column 1 2 1 and the row 1 2 1 (R142). -/
theorem blurSum_eq_separable (l : Nat → Nat → Int) (y x : Nat) : blurSum l y x = separableBlurSum l y x := by
  unfold blurSum separableBlurSum
  ring

/-- A sum at an interior pixel reads the lane inside the grid only (R17, R138). -/
theorem gridSum_congr {l l' : Nat → Nat → Int} {w h y x : Nat} (hl : ∀ y x, y < h → x < w → l y x = l' y x)
    (v : Int) (hin : interiorPixel w h y x) : gridSum v l y x = gridSum v l' y x := by
  obtain ⟨hx, hxw, hy, hyh⟩ := hin
  simp (disch := omega) only [gridSum, blurSum, sharpSum, hl]

/-- On a constant lane a sum is the value times the sum of the weights: 16 for blur, 1 for sharpen (R133, R134). -/
theorem gridSum_const (v a : Int) (y x : Nat) : gridSum v (fun _ _ => a) y x = if v > 0 then 16 * a else a := by
  unfold gridSum blurSum sharpSum
  split <;> ring

theorem byte_bounds (a : Byte) : (0 : Int) ≤ a.toNat ∧ (a.toNat : Int) ≤ 255 := by omega

/-- Settles O30: every tap is a byte. -/
theorem convSumsStayInTheirRanges : Obligations.ConvSumsStayInTheirRanges := by
  intro px w x y c
  have hblur := blurSum_bounds (fun v u => byte_bounds ((px (v * w + u)).chan c)) y x
  have hsharp := sharpSum_bounds (fun v u => byte_bounds ((px (v * w + u)).chan c)) y x
  rw [convSum_blur, convSum_sharpen]
  exact ⟨hblur, ofInt_byte_toNat (by omega) (by omega), hsharp⟩

/-- Settles O32: the sharpen kernel has a 0 in its corner and a -1 on either side of it, so neither factor of the corner
can be 0. -/
theorem onlyTheBlurKernelIsSeparable : Obligations.OnlyTheBlurKernelIsSeparable := by
  refine ⟨fun px w x y c => (convSum_blur px w x y c).trans (blurSum_eq_separable _ y x), ?_⟩
  rintro ⟨a, b, hab⟩
  have hcorner : (0 : Rat) = a 0 * b 0 := hab 0 (by omega) 0 (by omega)
  have hright : (-1 : Rat) = a 0 * b 1 := hab 0 (by omega) 1 (by omega)
  have hbelow : (-1 : Rat) = a 1 * b 0 := hab 1 (by omega) 0 (by omega)
  rcases mul_eq_zero.mp hcorner.symm with h0 | h0
  · simp [h0] at hright
  · simp [h0] at hbelow

/-! ### One lane of a pass -/

theorem Pixel.ext_chan {p q : Pixel} (h : ∀ c, p.chan c = q.chan c) : p = q := by
  cases p
  cases q
  rw [Pixel.mk.injEq]
  exact ⟨h .red, h .green, h .blue⟩

/-- A lane of a pass, pixel by pixel, from the same lane of the grid (R136 to R138). -/
theorem gridPass_chan (v : Int) (clamp : Bool) (w h : Nat) (g : Grid) (y x : Nat) (c : Channel) :
    (gridPass v clamp w h g y x).chan c =
      if interiorPixel w h y x then gridOut v clamp (gridSum v (g.lane c) y x) else (g y x).chan c := by
  unfold gridPass
  split
  · cases c <;> rfl
  · rfl

/-- Two grids agree on a channel of every pixel of a w by h grid. -/
def Grid.SameLane (w h : Nat) (c : Channel) (g g' : Grid) : Prop :=
  ∀ y x, y < h → x < w → (g y x).chan c = (g' y x).chan c

/-- Two grids agree on every pixel of a w by h grid. -/
def Grid.SameOn (w h : Nat) (g g' : Grid) : Prop := ∀ y x, y < h → x < w → g y x = g' y x

section
variable {w h : Nat} {c : Channel} {g g' : Grid}

theorem Grid.sameOn_iff_lanes : Grid.SameOn w h g g' ↔ ∀ c, Grid.SameLane w h c g g' :=
  ⟨fun hg c y x hy hx => congrArg (Pixel.chan · c) (hg y x hy hx),
    fun hg y x hy hx => Pixel.ext_chan fun c => hg c y x hy hx⟩

theorem Grid.SameLane.gridSum (hg : Grid.SameLane w h c g g') (v : Int) {y x : Nat} (hin : interiorPixel w h y x) :
    gridSum v (g.lane c) y x = gridSum v (g'.lane c) y x :=
  gridSum_congr (fun y x hy hx => by rw [Grid.lane, Grid.lane, hg y x hy hx]) v hin

/-- The lanes are independent in a pass (R138). -/
theorem Grid.SameLane.gridPass (hg : Grid.SameLane w h c g g') (v : Int) (clamp : Bool) :
    Grid.SameLane w h c (gridPass v clamp w h g) (gridPass v clamp w h g') := by
  intro y x hy hx
  rw [gridPass_chan, gridPass_chan]
  split
  · next hin => rw [hg.gridSum v hin]
  · exact hg y x hy hx

theorem Grid.SameLane.gridPasses (hg : Grid.SameLane w h c g g') (v : Int) (clamp : Bool) (n : Nat) :
    Grid.SameLane w h c (gridPasses v clamp w h g n) (gridPasses v clamp w h g' n) := by
  induction n with
  | zero => exact hg
  | succ n ih => exact ih.gridPass v clamp

theorem Grid.SameOn.gridPass (hg : Grid.SameOn w h g g') (v : Int) (clamp : Bool) :
    Grid.SameOn w h (gridPass v clamp w h g) (gridPass v clamp w h g') :=
  Grid.sameOn_iff_lanes.mpr fun c => (Grid.sameOn_iff_lanes.mp hg c).gridPass v clamp

theorem Grid.SameOn.gridPasses (hg : Grid.SameOn w h g g') (v : Int) (clamp : Bool) (n : Nat) :
    Grid.SameOn w h (gridPasses v clamp w h g n) (gridPasses v clamp w h g' n) :=
  Grid.sameOn_iff_lanes.mpr fun c => (Grid.sameOn_iff_lanes.mp hg c).gridPasses v clamp n

theorem Grid.SameOn.trans {g'' : Grid} (hg : Grid.SameOn w h g g') (hg' : Grid.SameOn w h g' g'') :
    Grid.SameOn w h g g'' :=
  fun y x hy hx => (hg y x hy hx).trans (hg' y x hy hx)

/-- Whether a pass has a sum outside [0, 255] depends on the pixels of the grid only. -/
theorem Grid.SameOn.gridOut255_iff (hg : Grid.SameOn w h g g') (v : Int) : gridOut255 v w h g ↔ gridOut255 v w h g' := by
  have hsum : ∀ {y x c}, interiorPixel w h y x → Machine.gridSum v (g.lane c) y x = Machine.gridSum v (g'.lane c) y x :=
    (Grid.sameOn_iff_lanes.mp hg _).gridSum v
  constructor
  · rintro ⟨y, x, c, hin, hout⟩
    exact ⟨y, x, c, hin, hsum hin ▸ hout⟩
  · rintro ⟨y, x, c, hin, hout⟩
    exact ⟨y, x, c, hin, (hsum hin).symm ▸ hout⟩

end

/-! ### What every pass keeps -/

/-- A pixel outside the interior is copied by every pass (R137). -/
theorem gridPasses_of_not_interior (v : Int) (clamp : Bool) {w h y x : Nat} (hout : ¬ interiorPixel w h y x) (g : Grid)
    (n : Nat) : gridPasses v clamp w h g n y x = g y x := by
  induction n with
  | zero => rfl
  | succ n ih => rw [gridPasses, gridPass, if_neg hout, ih]

/-- A grid with at most two columns or rows has no interior pixel (R143). -/
theorem not_interiorPixel_of_small {w h : Nat} (hsmall : w ≤ 2 ∨ h ≤ 2) (y x : Nat) : ¬ interiorPixel w h y x := by
  rintro ⟨hx, hxw, hy, hyh⟩
  omega

theorem not_gridOut255_of_small {w h : Nat} (hsmall : w ≤ 2 ∨ h ≤ 2) (v : Int) (g : Grid) : ¬ gridOut255 v w h g :=
  fun ⟨y, x, _, hin, _⟩ => not_interiorPixel_of_small hsmall y x hin

/-- The stored value of a constant lane's sum is the constant: the weights sum to the divisor (R133, R134, R139, R140). -/
theorem gridOut_gridSum_const (v : Int) (clamp : Bool) (a : Byte) (y x : Nat) :
    gridOut v clamp (gridSum v (fun _ _ => a.toNat) y x) = a := by
  obtain ⟨h0, h1⟩ := byte_bounds a
  have hkeep : BitVec.ofInt 8 a.toNat = a := by rw [BitVec.ofInt_natCast, BitVec.ofNat_toNat, BitVec.setWidth_eq]
  rw [gridSum_const, gridOut]
  split_ifs
  · rw [Int.mul_ediv_cancel_left _ (by decide), hkeep]
  · rw [min_eq_left h1, max_eq_right h0, hkeep]
  · rw [Int.emod_eq_of_lt h0 (by omega), hkeep]

theorem gridPasses_const (v : Int) (clamp : Bool) (w h : Nat) (p : Pixel) (n : Nat) :
    gridPasses v clamp w h (fun _ _ => p) n = fun _ _ => p := by
  induction n with
  | zero => rfl
  | succ n ih =>
    rw [gridPasses, ih]
    funext y x
    refine Pixel.ext_chan fun c => ?_
    rw [gridPass_chan]
    split
    · exact gridOut_gridSum_const v clamp (p.chan c) y x
    · rfl

/-- A sharpen of a constant grid has no sum outside [0, 255] (R134, R140). -/
theorem not_gridOut255_const {v : Int} (hv : v < 0) (w h : Nat) (p : Pixel) : ¬ gridOut255 v w h fun _ _ => p := by
  rintro ⟨y, x, c, -, hout⟩
  have hsum : gridSum v (Grid.lane (fun _ _ => p) c) y x = (p.chan c).toNat :=
    (gridSum_const v _ y x).trans (if_neg (by omega))
  rw [hsum] at hout
  have := byte_bounds (p.chan c)
  omega

end Sys2Proof.Machine
end

section
/-! CONV: its two checks, and its passes as passes on the plain grid of the current bank. -/

namespace Sys2Proof.Machine

/-! ### The checks -/

/-- Settles O22: the two error branches of CONV, in their order. -/
theorem convRejectsZeroThenBadGrid : Obligations.ConvRejectsZeroThenBadGrid := by
  intro s _
  refine ⟨fun hzero => ?_, fun hparam hbad => ?_⟩
  · rw [exec_conv, if_pos (convValue_eq_zero.mpr hzero)]
    rfl
  · have hgrid : badDims s s.gridWidth s.gridHeight := hbad
    rw [exec_conv, if_neg (mt convValue_eq_zero.mp hparam), if_pos hgrid]
    rfl

/-- CONV has passes to run: PARAM is not 0 and the grid registers describe a grid (R131, R132). -/
structure State.CanConvolve (s : State) : Prop where
  param : s.param ≠ 0
  width : 0 < s.gridWidth
  height : 0 < s.gridHeight
  fits : s.gridWidth * s.gridHeight ≤ s.params.gridCap

/-- The state CONV ends in where it raises nothing (R130). -/
def State.convolved (s : State) : State := (convPasses (kernelOf s.convValue) s s.convCount).finish

/-- The grid in the current bank. -/
def State.currentGrid (s : State) : Grid := s.gridOf s.status.curBank s.gridWidth

/-- The current grid after n passes on plain grids, with the operands of s (R130, R141). -/
def State.gridAfter (s : State) (n : Nat) : Grid :=
  gridPasses s.convValue s.cfg.sharpClamp s.gridWidth s.gridHeight s.currentGrid n

theorem State.CanConvolve.value_ne_zero {s : State} (hs : s.CanConvolve) : s.convValue ≠ 0 :=
  mt convValue_eq_zero.mp hs.param

theorem State.CanConvolve.count_ne_zero {s : State} (hs : s.CanConvolve) : s.convCount ≠ 0 :=
  Int.natAbs_ne_zero.mpr hs.value_ne_zero

theorem State.CanConvolve.exec_conv {s : State} (hs : s.CanConvolve) : exec .conv s = .next s.convolved := by
  have hgrid : ¬ badDims s s.gridWidth s.gridHeight := by
    have := hs.width
    have := hs.height
    have := hs.fits
    unfold badDims
    omega
  rw [Machine.exec_conv, if_neg hs.value_ne_zero, if_neg hgrid]
  rfl

/-! ### One pass is a pass on the plain grid -/

/-- The kernel the value selects sums the lane of the plain grid (R135, R138). -/
theorem convSum_kernelOf (v : Int) (px : Nat → Pixel) (w x y : Nat) (c : Channel) :
    convSum (kernelOf v) px w x y c = gridSum v (Grid.lane (fun y x => px (y * w + x)) c) y x := by
  unfold kernelOf gridSum
  split
  · exact convSum_blur px w x y c
  · exact convSum_sharpen px w x y c

theorem kernelOf_out (v : Int) (clamp : Bool) (n : Int) : (kernelOf v).out clamp n = gridOut v clamp n := by
  unfold kernelOf gridOut
  split
  · rfl
  · simp only [Kernel.out, outSharp, min_comm 255 n]

theorem kernelOf_eq_sharpen {v : Int} (hv : v ≠ 0) : kernelOf v = .sharpen ↔ v < 0 := by
  unfold kernelOf
  split
  · next hpos => exact iff_of_false (by decide) (by omega)
  · next hpos => exact iff_of_true rfl (by omega)

/-- Inside the grid the interior is what the border is not (R17, R137). -/
theorem onBorder_iff {w h y x : Nat} (hy : y < h) (hx : x < w) : onBorder w h x y ↔ ¬ interiorPixel w h y x := by
  unfold onBorder interiorPixel
  omega

theorem passPixel_kernelOf (v : Int) (clamp : Bool) (px : Nat → Pixel) {w h y x : Nat} (hy : y < h) (hx : x < w) :
    passPixel (kernelOf v) clamp px w h y x = gridPass v clamp w h (fun y x => px (y * w + x)) y x := by
  simp only [passPixel, gridPass, onBorder_iff hy hx, ite_not, convPixel, kernelOf_out, convSum_kernelOf]

theorem pixelOutOfRange_iff (k : Kernel) (px : Nat → Pixel) (w x y : Nat) :
    pixelOutOfRange k px w x y = true ↔ ∃ c, convSum k px w x y c < 0 ∨ 255 < convSum k px w x y c := by
  simp only [pixelOutOfRange, outOfRange, Bool.or_eq_true, decide_eq_true_eq]
  constructor
  · rintro ((h | h) | h)
    · exact ⟨.red, h⟩
    · exact ⟨.green, h⟩
    · exact ⟨.blue, h⟩
  · rintro ⟨c, h⟩
    cases c with
    | red => exact .inl (.inl h)
    | green => exact .inl (.inr h)
    | blue => exact .inr h

/-- A pass sets RANGE where it is a sharpen and the plain grid has a sum outside [0, 255] (R139, R140). -/
theorem passRange_kernelOf {v : Int} (hv : v ≠ 0) (px : Nat → Pixel) (w h : Nat) :
    passRange (kernelOf v) px w h = true ↔ v < 0 ∧ gridOut255 v w h fun y x => px (y * w + x) := by
  simp only [passRange, Bool.and_eq_true, decide_eq_true_eq, kernelOf_eq_sharpen hv, List.any_eq_true, List.mem_range,
    Bool.not_eq_true', decide_eq_false_iff_not, pixelOutOfRange_iff, convSum_kernelOf]
  refine and_congr_right fun _ => ⟨?_, ?_⟩
  · rintro ⟨y, hy, x, hx, hin, c, hout⟩
    exact ⟨y, x, c, not_not.mp (mt (onBorder_iff hy hx).mpr hin), hout⟩
  · rintro ⟨y, x, c, hin, hout⟩
    obtain ⟨-, hxw, -, hyh⟩ := id hin
    have hy : y < h := by omega
    have hx : x < w := by omega
    exact ⟨y, hy, x, hx, fun hborder => (onBorder_iff hy hx).mp hborder hin, c, hout⟩

/-- After a pass the current grid is the pass of the grid before it (R136, R141). -/
theorem convPass_currentGrid (v : Int) (s : State) :
    Grid.SameOn s.gridWidth s.gridHeight (convPass (kernelOf v) s).currentGrid
      (gridPass v s.cfg.sharpClamp s.gridWidth s.gridHeight s.currentGrid) := by
  intro y x hy hx
  rw [State.currentGrid, State.gridOf, convPass_gridWidth, convPass_curBank, convPass_pixel_dst _ s hx hy,
    passPixel_kernelOf v _ _ hy hx]
  rfl

theorem convPass_range_kernelOf {v : Int} (hv : v ≠ 0) (s : State) :
    (convPass (kernelOf v) s).status.range = true ↔
      s.status.range = true ∨ (v < 0 ∧ gridOut255 v s.gridWidth s.gridHeight s.currentGrid) := by
  rw [convPass_range, Bool.or_eq_true, passRange_kernelOf hv]
  rfl

/-! ### Many passes -/

theorem convPasses_curBank (k : Kernel) (s : State) (n : Nat) :
    (convPasses k s n).status.curBank = if n % 2 = 1 then s.status.curBank.other else s.status.curBank := by
  induction n with
  | zero => rfl
  | succ n ih =>
    rw [convPasses_succ, convPass_curBank, ih]
    rcases Nat.mod_two_eq_zero_or_one n with hn | hn
    · rw [if_neg (by omega), if_pos (by omega)]
    · rw [if_pos hn, if_neg (by omega), Bank.other_other]

theorem convPasses_pixel_beyond (k : Kernel) {s : State} (hw : 0 < s.gridWidth) (b : Bank) {i : Nat}
    (hi : s.gridWidth * s.gridHeight ≤ i) (n : Nat) : (convPasses k s n).pixel b i = s.pixel b i := by
  induction n with
  | zero => rfl
  | succ n ih => rw [convPasses_succ, convPass_pixel_beyond k _ b (by simpa using hw) (by simpa using hi), ih]

/-- The current bank holds the last pass's grid (R141). -/
theorem convPasses_currentGrid (s : State) (n : Nat) :
    Grid.SameOn s.gridWidth s.gridHeight (convPasses (kernelOf s.convValue) s n).currentGrid (s.gridAfter n) := by
  induction n with
  | zero => exact fun _ _ _ _ => rfl
  | succ n ih =>
    have hpass := convPass_currentGrid s.convValue (convPasses (kernelOf s.convValue) s n)
    rw [convPasses_gridWidth, convPasses_gridHeight, convPasses_cfg] at hpass
    exact hpass.trans (ih.gridPass s.convValue s.cfg.sharpClamp)

/-- The other bank holds what the last pass read, the grid of one pass less (R136, R141). -/
theorem convPasses_succ_otherBank (k : Kernel) (s : State) (n i : Nat) :
    (convPasses k s (n + 1)).pixel (convPasses k s (n + 1)).status.curBank.other i =
      (convPasses k s n).pixel (convPasses k s n).status.curBank i := by
  rw [convPasses_succ, convPass_curBank, Bank.other_other, convPass_pixel_src]

/-- RANGE is sticky over the passes (R140). -/
theorem convPasses_range {s : State} (hs : s.CanConvolve) (n : Nat) :
    (convPasses (kernelOf s.convValue) s n).status.range = true ↔ s.status.range = true ∨
      (s.convValue < 0 ∧ ∃ m < n, gridOut255 s.convValue s.gridWidth s.gridHeight (s.gridAfter m)) := by
  induction n with
  | zero => simp [convPasses_zero]
  | succ n ih =>
    rw [convPasses_succ, convPass_range_kernelOf hs.value_ne_zero, ih, convPasses_gridWidth, convPasses_gridHeight,
      (convPasses_currentGrid s n).gridOut255_iff, Nat.exists_lt_succ_right, and_or_left, or_assoc]

/-! ### The end of CONV -/

theorem convolved_pixel (s : State) (b : Bank) (i : Nat) :
    s.convolved.pixel b i = (convPasses (kernelOf s.convValue) s s.convCount).pixel b i :=
  pixel_congr rfl rfl rfl b i

theorem convolved_curBank (s : State) :
    s.convolved.status.curBank = if s.convCount % 2 = 1 then s.status.curBank.other else s.status.curBank :=
  convPasses_curBank _ s _

theorem convolved_pixel_beyond {s : State} (hs : s.CanConvolve) (b : Bank) {i : Nat}
    (hi : s.gridWidth * s.gridHeight ≤ i) : s.convolved.pixel b i = s.pixel b i :=
  (convolved_pixel s b i).trans (convPasses_pixel_beyond _ hs.width b hi _)

theorem convolved_range {s : State} (hs : s.CanConvolve) :
    s.convolved.status.range = true ↔ s.status.range = true ∨
      (s.convValue < 0 ∧ ∃ n < s.convCount, gridOut255 s.convValue s.gridWidth s.gridHeight (s.gridAfter n)) :=
  convPasses_range hs _

/-- Without a sum outside [0, 255] in a sharpen's passes RANGE is left alone (R140). -/
theorem convolved_range_of_inside {s : State} (hs : s.CanConvolve)
    (hin : s.convValue < 0 → ∀ n, ¬ gridOut255 s.convValue s.gridWidth s.gridHeight (s.gridAfter n)) :
    s.convolved.status.range = s.status.range := by
  rw [Bool.eq_iff_iff, convolved_range hs]
  exact or_iff_left fun ⟨hv, n, _, hout⟩ => hin hv n hout

/-- The current bank holds the result of the last pass (R141). -/
theorem convolved_current (s : State) {y x : Nat} (hy : y < s.gridHeight) (hx : x < s.gridWidth) :
    s.convolved.pixel s.convolved.status.curBank (y * s.gridWidth + x) = s.gridAfter s.convCount y x := by
  have hgrid := convPasses_currentGrid s s.convCount y x hy hx
  rwa [State.currentGrid, State.gridOf, convPasses_gridWidth, ← convolved_pixel] at hgrid

/-- The other bank holds the result of one pass less (R141). -/
theorem convolved_other {s : State} (hs : s.CanConvolve) {y x : Nat} (hy : y < s.gridHeight) (hx : x < s.gridWidth) :
    s.convolved.pixel s.convolved.status.curBank.other (y * s.gridWidth + x) = s.gridAfter (s.convCount - 1) y x := by
  obtain ⟨n, hn⟩ := Nat.exists_eq_add_one_of_ne_zero hs.count_ne_zero
  have hgrid := convPasses_currentGrid s n y x hy hx
  rw [State.currentGrid, State.gridOf, convPasses_gridWidth, ← convPasses_succ_otherBank, ← hn] at hgrid
  rwa [convolved_pixel, hn, Nat.add_sub_cancel, ← hn]

/-- Every index below W * H is the index of a pixel of the grid (R41). -/
theorem forall_index_of_pixel {w h : Nat} {P : Nat → Prop} (hP : ∀ y x, y < h → x < w → P (y * w + x)) :
    ∀ i < w * h, P i := by
  intro i hi
  have hx : i % w < w := Nat.mod_lt _ (Nat.pos_of_mul_pos_right (Nat.zero_lt_of_lt hi))
  have hcell := hP (i / w) (i % w) (Nat.div_lt_of_lt_mul hi) hx
  rwa [Nat.div_add_mod'] at hcell

theorem pixel_index_lt {w h y x : Nat} (hy : y < h) (hx : x < w) : y * w + x < w * h := by
  have hrow := Nat.mul_le_mul_right w (Nat.succ_le_of_lt hy)
  rw [Nat.succ_mul, Nat.mul_comm h] at hrow
  omega

/-- Settles O23: CONV ends in `convolved`. -/
theorem convComputesThePassesOfTheGrid : Obligations.ConvComputesThePassesOfTheGrid := by
  intro s _ hparam hw hh hcap v n w h g
  have hs : s.CanConvolve := ⟨hparam, hw, hh, hcap⟩
  have hstatus := convPasses_frame (kernelOf s.convValue) s s.convCount
  refine ⟨s.convolved, hs.exec_conv, rfl, rfl, ?_, ?_, convolved_curBank s,
    fun y x hy hx => ⟨convolved_current s hy hx, convolved_other hs hy hx⟩,
    fun b i hi => convolved_pixel_beyond hs b hi⟩
  · rw [State.convolved, hstatus]
    rfl
  · rw [State.convolved, hstatus]
    rfl

/-- Settles O24: the frame of the passes, and their reach. -/
theorem convTouchesOnlyTheGrid : Obligations.ConvTouchesOnlyTheGrid := by
  intro s _ hparam hw hh hcap
  have hs : s.CanConvolve := ⟨hparam, hw, hh, hcap⟩
  refine ⟨s.convolved, hs.exec_conv, ?_, fun b i hi => convolved_pixel_beyond hs b hi⟩
  exact congrArg State.finish (convPasses_frame (kernelOf s.convValue) s s.convCount)

/-- Settles O25: RANGE gathers the passes one by one. -/
theorem rangeFlagsSharpenSumsOutside : Obligations.RangeFlagsSharpenSumsOutside := by
  intro s _ hparam hw hh hcap v g
  have hs : s.CanConvolve := ⟨hparam, hw, hh, hcap⟩
  exact ⟨s.convolved, hs.exec_conv, convolved_range hs⟩

/-- Settles O26: a border pixel is not in the interior, so every pass copies it. -/
theorem convKeepsTheBorder : Obligations.ConvKeepsTheBorder := by
  intro s _ hparam hw hh hcap
  have hs : s.CanConvolve := ⟨hparam, hw, hh, hcap⟩
  refine ⟨s.convolved, hs.exec_conv, fun y x hy hx hborder => ?_⟩
  have hedge : onBorder s.gridW.toNat s.gridH.toNat x y := by
    unfold onBorder
    omega
  have hout : ¬ interiorPixel s.gridWidth s.gridHeight y x := (onBorder_iff hy hx).mp hedge
  exact (convolved_current s hy hx).trans (gridPasses_of_not_interior _ _ hout _ _)

/-- Settles O27: without an interior every pass copies the whole grid. -/
theorem convCopiesAGridWithoutInterior : Obligations.ConvCopiesAGridWithoutInterior := by
  intro s _ hparam hw hh hcap hsmall
  have hs : s.CanConvolve := ⟨hparam, hw, hh, hcap⟩
  have hcopy : ∀ n y x, s.gridAfter n y x = s.currentGrid y x := fun n y x =>
    gridPasses_of_not_interior _ _ (not_interiorPixel_of_small hsmall y x) _ n
  refine ⟨s.convolved, hs.exec_conv, convolved_range_of_inside hs fun _ n => not_gridOut255_of_small hsmall _ _,
    convolved_curBank s, forall_index_of_pixel fun y x hy hx => ⟨?_, ?_⟩⟩
  · exact (convolved_current s hy hx).trans (hcopy _ y x)
  · exact (convolved_other hs hy hx).trans (hcopy _ y x)

/-- Settles O28: each pass of a constant grid is the constant grid. -/
theorem convFixesAConstantGrid : Obligations.ConvFixesAConstantGrid := by
  intro s p _ hparam hw hh hcap hconst
  have hs : s.CanConvolve := ⟨hparam, hw, hh, hcap⟩
  have hgrid : Grid.SameOn s.gridWidth s.gridHeight s.currentGrid fun _ _ => p := fun y x hy hx =>
    hconst _ (pixel_index_lt hy hx)
  have hkeep : ∀ n, Grid.SameOn s.gridWidth s.gridHeight (s.gridAfter n) fun _ _ => p := fun n => by
    rw [← gridPasses_const s.convValue s.cfg.sharpClamp s.gridWidth s.gridHeight p n]
    exact hgrid.gridPasses _ _ n
  refine ⟨s.convolved, hs.exec_conv, convolved_range_of_inside hs fun hv n => ?_,
    forall_index_of_pixel fun y x hy hx => (convolved_current s hy hx).trans (hkeep _ y x hy hx)⟩
  rw [(hkeep n).gridOut255_iff]
  exact not_gridOut255_const hv _ _ p

/-- Settles O29: the lane of every pass is decided by the lane before it. -/
theorem convChannelsAreIndependent : Obligations.ConvChannelsAreIndependent := by
  intro s u c _ _ hparam hw hh hcap hcapu hparamu hwu hhu hclamp hbank hlane
  have hs : s.CanConvolve := ⟨hparam, hw, hh, hcap⟩
  have hwidth : u.gridWidth = s.gridWidth := congrArg BitVec.toNat hwu
  have hheight : u.gridHeight = s.gridHeight := congrArg BitVec.toNat hhu
  have hvalue : u.convValue = s.convValue := congrArg BitVec.toInt hparamu
  have hcount : u.convCount = s.convCount := congrArg Int.natAbs hvalue
  have hu : u.CanConvolve := ⟨hparamu ▸ hparam, hwidth ▸ hw, hheight ▸ hh, by rwa [hwidth, hheight, hcapu]⟩
  have hgrid : Grid.SameLane s.gridWidth s.gridHeight c s.currentGrid u.currentGrid := fun y x hy hx => by
    rw [State.currentGrid, State.currentGrid, hwidth]
    exact hlane _ (pixel_index_lt hy hx)
  refine ⟨s.convolved, u.convolved, hs.exec_conv, hu.exec_conv, ?_, forall_index_of_pixel fun y x hy hx => ?_⟩
  · rw [convolved_curBank, convolved_curBank, hcount, hbank]
  · have hpasses := hgrid.gridPasses s.convValue s.cfg.sharpClamp s.convCount y x hy hx
    have hpixel := convolved_current u (hy.trans_eq hheight.symm) (hx.trans_eq hwidth.symm)
    rw [State.gridAfter, hwidth, hheight, hvalue, hclamp, hcount] at hpixel
    exact (congrArg (Pixel.chan · c) (convolved_current s hy hx)).trans
      (hpasses.trans (congrArg (Pixel.chan · c) hpixel).symm)

end Sys2Proof.Machine
end

section
/-! The host-fault mark: which turns move it, and the one cause of its setting (R167, R177, R178). -/

namespace Sys2Proof.Machine

/-- The host must treat the engine as BUSY where it is, or where it has not yet synchronised (R176). -/
theorem hostBusy_iff {s : State} : s.hostBusy = true ↔ s.seq ≠ .idle ∨ s.awaitSync = true := by
  refine ⟨fun hbusy => ?_, hostBusy_of_busy⟩
  by_contra! hfree
  obtain ⟨hidle, hsync⟩ := hfree
  have hnot := hostBusy_of_idle hidle (Bool.eq_false_iff.mpr hsync)
  cases hbusy.symm.trans hnot

/-- The engine's turn does not move the mark (R178). -/
theorem engineTurn_hostFault {s t : State} (h : engineTurn s = .next t) : t.hostFault = s.hostFault := by
  rcases engineTurn_frame h with ⟨-, rfl⟩ | ⟨-, hframe⟩
  · rfl
  · rw [hframe]

/-- A host read does not move the mark (R177). -/
theorem hostRead_hostFault (s : State) (z : Size) (a : Word) : (s.hostRead z a).hostFault = s.hostFault := by
  obtain ⟨r, e | ⟨-, e⟩ | ⟨-, -, -, e⟩⟩ := hostRead_effect s z a <;> rw [e] <;> rfl

/-- Of the writes, only one other than to CMD and STATUS, made while the host must treat the engine as BUSY, moves the mark,
and it sets it (R177, R178). -/
theorem hostWrite_hostFault (s : State) (z : Size) (a v : Word) :
    (s.hostWrite z a v).hostFault = s.hostFault ∨
      ((s.hostWrite z a v).hostFault = true ∧ s.hostBusy = true ∧ a ≠ 0x00000004 ∧ a ≠ 0x00000008) := by
  rcases hostWrite_effect s z a v with e | ⟨hbusy, hcmd, hstatus, e⟩ | ⟨-, -, e⟩ | ⟨-, -, e⟩ | ⟨-, -, -, e⟩ |
    ⟨-, u, e, hu, -⟩ <;> rw [e]
  · exact .inl rfl
  · exact .inr ⟨rfl, hbusy, hcmd, hstatus⟩
  · rcases writeCmd_cases s v with ⟨-, e⟩ | ⟨_, -, e⟩ <;> rw [e] <;> exact .inl rfl
  · exact .inl rfl
  · exact .inl rfl
  · exact .inl (by rw [hu]; rfl)

/-- A step keeps the mark, or sets it by a write that R177 forbids. -/
theorem step_hostFault {s t : State} (h : step s = .next t) :
    t.hostFault = s.hostFault ∨
      (t.hostFault = true ∧ (s.seq ≠ .idle ∨ s.awaitSync = true) ∧
        ∃ rest z a v, s.pending = .host (.write z a v) :: rest ∧ a ≠ 0x00000004 ∧ a ≠ 0x00000008) := by
  obtain ⟨-, ⟨-, ht⟩ | ⟨rest, -, ht⟩ | ⟨rest, -, rfl⟩ | ⟨rest, access, hp, rfl⟩⟩ := step_cases h
  · exact .inl (engineTurn_hostFault ht)
  · exact .inl (engineTurn_hostFault (s := { s with pending := rest }) ht)
  · exact .inl (takeReset_hostFault { s with pending := rest })
  · cases access with
    | read z a => exact .inl (hostRead_hostFault { s with pending := rest } z a)
    | write z a v =>
      rcases hostWrite_hostFault { s with pending := rest } z a v with hkeep | ⟨hset, hbusy, hcmd, hstatus⟩
      · exact .inl hkeep
      · exact .inr ⟨hset, hostBusy_iff.mp hbusy, rest, z, a, v, hp, hcmd, hstatus⟩

/-- Settles O46: `step_hostFault` leaves a step no way to clear the mark, and one cause to set it. -/
theorem hostFaultIsStickyAndHasOneCause : Obligations.HostFaultIsStickyAndHasOneCause := by
  refine ⟨fun s t h hset => ?_, fun s t h hclear hset => ?_⟩
  · rcases step_hostFault h with hkeep | ⟨hset', -⟩
    · exact hkeep.trans hset
    · exact hset'
  · rcases step_hostFault h with hkeep | ⟨-, hcause⟩
    · cases hclear.symm.trans (hkeep.symm.trans hset)
    · exact hcause

end Sys2Proof.Machine
end

section
/-! Host accesses while the host must treat the engine as BUSY (R176 to R178). -/

namespace Sys2Proof.Machine

/-- A write that is no bus error, to neither CMD nor STATUS, is a host fault (R177, R178). -/
theorem hostWrite_of_fault {s : State} {z : Size} {a : Word} (hb : s.hostBusy = true) (he : busError z a = false)
    (hcmd : a ≠ 0x00000004) (hstatus : a ≠ 0x00000008) (v : Word) : s.hostWrite z a v = s.takeHostFault := by
  rw [State.hostWrite, he, hb, writeDefined_false hcmd hstatus]
  rfl

/-- Settles O45: the address is mapped and not that of CMD or STATUS, so the write is a host fault. -/
theorem writeWhileBusyIsAHostFault : Obligations.WriteWhileBusyIsAHostFault := by
  intro s z a v rest hwf _ hbusy hp hal hslot
  have he : busError z a = false :=
    busError_of_mapped hal (hslot.imp_left fun ⟨hz, hlow, _⟩ => ⟨hz, hlow⟩)
  have hne : a ≠ 0x00000004 ∧ a ≠ 0x00000008 := by
    rcases hslot with ⟨-, -, hne⟩ | ⟨hlow, -⟩ | ⟨-, hlow, -⟩
    · exact hne
    all_goals constructor <;> rintro rfl <;> exact absurd hlow (by decide)
  have hb : ({ s with pending := rest } : State).hostBusy = true := hostBusy_of_busy hbusy
  exact ⟨_, by rw [step_write hwf hp, hostWrite_of_fault hb he hne.1 hne.2], takeHostFault_hostFault _⟩

/-- A read of ID, IN_CAP or GRID_CAP returns the constant in every state (R22, R28, R177). -/
theorem hostRead_constants (s : State) :
    s.hostRead .four 0x00000000 = s.respond (.read .okay 0x50420001) ∧
      s.hostRead .four 0x00000028 = s.respond (.read .okay (BitVec.ofNat 32 s.params.inCap)) ∧
      s.hostRead .four 0x0000002C = s.respond (.read .okay (BitVec.ofNat 32 s.params.gridCap)) := by
  refine ⟨?_, ?_, ?_⟩ <;> (rw [hostRead_of_defined (by decide) (.inr (by decide))]; rfl)

/-- A read whose value R177 leaves open responds with a free value, cut to its lanes (log 7). -/
theorem hostRead_of_undefined {s : State} {z : Size} {a : Word} (hb : s.hostBusy = true) (he : busError z a = false)
    (hd : (decodeAddr a).readDefined = false) :
    s.hostRead z a =
      ({ s with draws := s.draws + 1 } : State).respond (.read .okay (laneMask z (Config.busyData s.draws))) := by
  rw [State.hostRead, he, hb, hd]
  rfl

/-- A value cut to an access's lanes fits them (R59). -/
theorem laneMask_toNat_lt (z : Size) (v : Word) : (laneMask z v).toNat < 2 ^ (8 * z.bytes) := by
  rw [laneMask, BitVec.toNat_ofNat]
  exact (Nat.mod_le _ _).trans_lt (Nat.mod_lt _ (Nat.two_pow_pos _))

/-- Settles O47: the constants' reads are defined, and of the others only that of STATUS is. -/
theorem readsWhileBusyComplete : Obligations.ReadsWhileBusyComplete := by
  intro s z a rest hwf _ hbusy hp hal
  obtain ⟨hid, hinCap, hgridCap⟩ := hostRead_constants { s with pending := rest }
  refine ⟨?_, ?_, ?_, fun hslot => ?_⟩
  · rintro rfl rfl
    rw [step_read hwf hp, hid]
    rfl
  · rintro rfl rfl
    rw [step_read hwf hp, hinCap]
    rfl
  · rintro rfl rfl
    rw [step_read hwf hp, hgridCap]
    rfl
  have he : busError z a = false :=
    busError_of_mapped hal (hslot.imp_left fun ⟨hz, hlow, _⟩ => ⟨hz, hlow⟩)
  have hd : (decodeAddr a).readDefined = false := by
    rcases hslot with ⟨-, -, h0, h8, h28, h2c⟩ | ⟨hlow, -⟩ | ⟨-, hlow, -⟩
    · exact readDefined_false h0 h8 h28 h2c
    all_goals apply readDefined_false <;> rintro rfl <;> exact absurd hlow (by decide)
  have hb : ({ s with pending := rest } : State).hostBusy = true := hostBusy_of_busy hbusy
  refine ⟨laneMask z (Config.busyData s.draws), laneMask_toNat_lt _ _, ?_⟩
  rw [step_read hwf hp, hostRead_of_undefined hb he hd]
  rfl

end Sys2Proof.Machine
end
